-- ==== Sys2Proof/Word.lean ====
section
/-! DEFINITION. The word types of CORE (00_scope.md R4, R9): all values are unsigned, and nothing is ever
sign-extended. -/

namespace Sys2Proof

/-- A byte: a general register, a timer, SP, or a memory cell (R4 `V_WIDTH`, `SP_WIDTH`, `TIMER_WIDTH`). -/
abbrev Byte := BitVec 8

/-- A 16-bit word: I, pc, a stack slot, or an instruction word (R4 `I_WIDTH`, `PC_WIDTH`, `STACK_WIDTH`, `INSTR_WIDTH`). -/
abbrev Word := BitVec 16

/-- The 12-bit address immediate `nnn` (30_encoding.md R72, R73). -/
abbrev Imm12 := BitVec 12

/-- A 4-bit field of an instruction word; a key code is one too (R4 `KEY_CODES`). -/
abbrev Nibble := BitVec 4

/-- The number of a general register, V0 to VF (10_state.md R21). -/
abbrev Reg := Fin 16

/-- VF, the flag register (10_state.md R22). -/
abbrev vf : Reg := 15

end Sys2Proof
end

