-- ==== Sys2Proof/Config.lean ====
section
/-! DEFINITION. The parameters of CORE (00_scope.md R4) and the free values: the one open parameter `FontAddr`
(decision D13) and the answers of the collaborators where no scripted answer stands in State (46_io.md R177).
An opaque constant has no body that a proof could use, so whatever is proved holds for every value of it. -/

namespace Sys2Proof.Config

/-- `MEM_SIZE`: addresses 0x000 to 0xFFF (R4; 20_memory.md R50). -/
abbrev memSize : Nat := 4096

/-- `STACK_DEPTH`: sixteen slots (R4; 10_state.md R28). -/
abbrev stackDepth : Nat := 16

/-- `PC_RESET` (R4; 10_state.md R25). -/
abbrev pcReset : Word := 0x200

/-- `LOAD_BASE`: where the loader puts the first byte of an image (R4; 70_reset_and_hazards.md R256). -/
abbrev loadBase : Nat := 0x200

/-- The longest image that fits above `loadBase` (20_memory.md R62 (c)). -/
abbrev maxImage : Nat := memSize - loadBase

/-- The bytes of one instruction (30_encoding.md R70). -/
abbrev instrBytes : Word := 2

/-- `FontAddr`: the address Fx29 computes, a total function of the byte alone (R4, R152; decision D13).
OPEN, log entry 3. -/
opaque fontAddr : Byte → Word

/-- The entropy source's answer number `k` (R171, R177). FREE VALUE, log entry 1. -/
opaque randomByte : (k : Nat) → Byte

/-- The display's collision bit for answer number `k`, which may depend on what was drawn (R172, R177).
FREE VALUE, log entry 1. -/
opaque collision : (k : Nat) → (cx cy : Byte) → (bytes : List Byte) → Bool

/-- The keyboard's answer number `k` to "is key `key` down" (R173, R174, R177). FREE VALUE, log entry 1. -/
opaque keyDown : (k : Nat) → (key : Byte) → Bool

/-- The keyboard's answer number `k` to a wait for a key: nothing yet, or a 4-bit code (R175, R177).
FREE VALUE, log entry 1. -/
opaque keyWait : (k : Nat) → Option Nibble

end Sys2Proof.Config
end

