-- ==== Sys2Proof/Syntax.lean ====
section
/-! DEFINITION. The 35 instructions, one constructor per row of the opcode map (30_encoding.md R76), in the map's
order. The operand types carry the field widths of R72 and R73, so every term is within its encoding's range. -/

namespace Sys2Proof

/-- The instructions of CORE. `x` and `y` name registers, `nn` is an 8-bit and `nnn` a 12-bit immediate, `n` a count
of bytes. The `y` of `shrVxVy` and `shlVxVy` is encoded and ignored (R77; log entry 14). -/
inductive Instr where
  /-- 0000, no operation (R100). -/
  | nop
  /-- 00E0, ask the display to clear (R170). -/
  | cls
  /-- 00EE, return (R101). -/
  | ret
  /-- 1nnn, jump (R102). -/
  | jpNnn (nnn : Imm12)
  /-- 2nnn, call (R103). -/
  | callNnn (nnn : Imm12)
  /-- 3xnn, skip if equal to an immediate (R110). -/
  | seVxNn (x : Reg) (nn : Byte)
  /-- 4xnn, skip if not equal to an immediate (R111). -/
  | sneVxNn (x : Reg) (nn : Byte)
  /-- 5xy0, skip if two registers are equal (R112). -/
  | seVxVy (x y : Reg)
  /-- 6xnn, load an immediate (R120). -/
  | ldVxNn (x : Reg) (nn : Byte)
  /-- 7xnn, add an immediate, no flag (R121). -/
  | addVxNn (x : Reg) (nn : Byte)
  /-- 8xy0, copy a register (R130). -/
  | ldVxVy (x y : Reg)
  /-- 8xy1, bitwise or (R131). -/
  | orVxVy (x y : Reg)
  /-- 8xy2, bitwise and (R132). -/
  | andVxVy (x y : Reg)
  /-- 8xy3, bitwise exclusive or (R133). -/
  | xorVxVy (x y : Reg)
  /-- 8xy4, add with carry out (R134). -/
  | addVxVy (x y : Reg)
  /-- 8xy5, subtract (R135). -/
  | subVxVy (x y : Reg)
  /-- 8xy6, shift right by one (R136). -/
  | shrVxVy (x y : Reg)
  /-- 8xy7, subtract in reverse (R137). -/
  | subnVxVy (x y : Reg)
  /-- 8xyE, shift left by one (R138). -/
  | shlVxVy (x y : Reg)
  /-- 9xy0, skip if two registers differ (R113). -/
  | sneVxVy (x y : Reg)
  /-- Annn, set I (R150). -/
  | ldINnn (nnn : Imm12)
  /-- Bnnn, indexed jump (R104). -/
  | jpV0Nnn (nnn : Imm12)
  /-- Cxnn, masked random byte (R171). -/
  | rndVxNn (x : Reg) (nn : Byte)
  /-- Dxyn, draw (R172). -/
  | drwVxVyN (x y : Reg) (n : Nibble)
  /-- Ex9E, skip if the key is down (R173). -/
  | skpVx (x : Reg)
  /-- ExA1, skip if the key is not down (R174). -/
  | sknpVx (x : Reg)
  /-- Fx07, read the delay timer (R160). -/
  | ldVxDt (x : Reg)
  /-- Fx0A, wait for a key (R175). -/
  | ldVxK (x : Reg)
  /-- Fx15, set the delay timer (R161). -/
  | ldDtVx (x : Reg)
  /-- Fx18, set the sound timer (R162). -/
  | ldStVx (x : Reg)
  /-- Fx1E, add to I (R151). -/
  | addIVx (x : Reg)
  /-- Fx29, set I to a font address (R152). -/
  | ldFVx (x : Reg)
  /-- Fx33, store decimal digits (R153). -/
  | ldBVx (x : Reg)
  /-- Fx55, store V0 to Vx (R154). -/
  | ldMemVx (x : Reg)
  /-- Fx65, load V0 to Vx (R155). -/
  | ldVxMem (x : Reg)
  deriving DecidableEq, Repr

end Sys2Proof
end

