-- ==== Sys2Proof/WellFormed.lean ====
section
/-! DEFINITION. What is well formed: an instruction word (it matches a row of the opcode map, 30_encoding.md R76), an
instruction (its row stands in the map; its operands' widths are already in their types), and a program image (it fits
above the load address, 20_memory.md R62 (c)). The map is written here as the spec tabulates it, by mask and match; the
decoder is written from the nibble cases of R75, so that the two can be compared. -/

namespace Sys2Proof

/-- One row of the opcode map: "a word w is this instruction exactly when `w AND mask = match`" (R76). -/
structure Row where
  mnemonic : String
  mask     : Word
  fixed    : Word
  deriving DecidableEq, Repr

/-- The row's test of a word. -/
def Row.covers (r : Row) (w : Word) : Bool := w &&& r.mask == r.fixed

/-- The rows of families 0, 1, 2 and B (40_control.md; CLS is 46_io.md). -/
def rowsControl : List Row :=
  [⟨"NOP", 0xFFFF, 0x0000⟩,
   ⟨"CLS", 0xFFFF, 0x00E0⟩,
   ⟨"RET", 0xFFFF, 0x00EE⟩,
   ⟨"JP_nnn", 0xF000, 0x1000⟩,
   ⟨"CALL_nnn", 0xF000, 0x2000⟩,
   ⟨"JP_V0__nnn", 0xF000, 0xB000⟩]

/-- The rows of families 3 to 7, 9 (41_skips.md, 42_immediate.md). -/
def rowsSkipImm : List Row :=
  [⟨"SE_Vx__nn", 0xF000, 0x3000⟩,
   ⟨"SNE_Vx__nn", 0xF000, 0x4000⟩,
   ⟨"SE_Vx__Vy", 0xF00F, 0x5000⟩,
   ⟨"LD_Vx__nn", 0xF000, 0x6000⟩,
   ⟨"ADD_Vx__nn", 0xF000, 0x7000⟩,
   ⟨"SNE_Vx__Vy", 0xF00F, 0x9000⟩]

/-- The rows of family 8 (43_alu.md). -/
def rowsAlu : List Row :=
  [⟨"LD_Vx__Vy", 0xF00F, 0x8000⟩,
   ⟨"OR_Vx__Vy", 0xF00F, 0x8001⟩,
   ⟨"AND_Vx__Vy", 0xF00F, 0x8002⟩,
   ⟨"XOR_Vx__Vy", 0xF00F, 0x8003⟩,
   ⟨"ADD_Vx__Vy", 0xF00F, 0x8004⟩,
   ⟨"SUB_Vx__Vy", 0xF00F, 0x8005⟩,
   ⟨"SHR_Vx__Vy", 0xF00F, 0x8006⟩,
   ⟨"SUBN_Vx__Vy", 0xF00F, 0x8007⟩,
   ⟨"SHL_Vx__Vy", 0xF00F, 0x800E⟩]

/-- The rows of families A, C, D and E (44_index_memory.md, 46_io.md). -/
def rowsIndexIo : List Row :=
  [⟨"LD_I__nnn", 0xF000, 0xA000⟩,
   ⟨"RND_Vx__nn", 0xF000, 0xC000⟩,
   ⟨"DRW_Vx__Vy__n", 0xF000, 0xD000⟩,
   ⟨"SKP_Vx", 0xF0FF, 0xE09E⟩,
   ⟨"SKNP_Vx", 0xF0FF, 0xE0A1⟩]

/-- The rows of family F (44_index_memory.md, 45_timers.md, 46_io.md). -/
def rowsF : List Row :=
  [⟨"LD_Vx__DT", 0xF0FF, 0xF007⟩,
   ⟨"LD_Vx__K", 0xF0FF, 0xF00A⟩,
   ⟨"LD_DT__Vx", 0xF0FF, 0xF015⟩,
   ⟨"LD_ST__Vx", 0xF0FF, 0xF018⟩,
   ⟨"ADD_I__Vx", 0xF0FF, 0xF01E⟩,
   ⟨"LD_F__Vx", 0xF0FF, 0xF029⟩,
   ⟨"LD_B__Vx", 0xF0FF, 0xF033⟩,
   ⟨"LD__I___Vx", 0xF0FF, 0xF055⟩,
   ⟨"LD_Vx___I", 0xF0FF, 0xF065⟩]

/-- The opcode map, 35 rows (R76). -/
def opcodeTable : List Row :=
  rowsControl ++ rowsSkipImm ++ rowsAlu ++ rowsIndexIo ++ rowsF

/-- A word is legal when some row covers it; every other word is illegal (R80). -/
def legalWord (w : Word) : Bool := opcodeTable.any (fun r => r.covers w)

/-- The row of the opcode map that an instruction belongs to. -/
def Instr.row : Instr → Row
  | .nop => ⟨"NOP", 0xFFFF, 0x0000⟩
  | .cls => ⟨"CLS", 0xFFFF, 0x00E0⟩
  | .ret => ⟨"RET", 0xFFFF, 0x00EE⟩
  | .jpNnn _ => ⟨"JP_nnn", 0xF000, 0x1000⟩
  | .callNnn _ => ⟨"CALL_nnn", 0xF000, 0x2000⟩
  | .seVxNn _ _ => ⟨"SE_Vx__nn", 0xF000, 0x3000⟩
  | .sneVxNn _ _ => ⟨"SNE_Vx__nn", 0xF000, 0x4000⟩
  | .seVxVy _ _ => ⟨"SE_Vx__Vy", 0xF00F, 0x5000⟩
  | .ldVxNn _ _ => ⟨"LD_Vx__nn", 0xF000, 0x6000⟩
  | .addVxNn _ _ => ⟨"ADD_Vx__nn", 0xF000, 0x7000⟩
  | .ldVxVy _ _ => ⟨"LD_Vx__Vy", 0xF00F, 0x8000⟩
  | .orVxVy _ _ => ⟨"OR_Vx__Vy", 0xF00F, 0x8001⟩
  | .andVxVy _ _ => ⟨"AND_Vx__Vy", 0xF00F, 0x8002⟩
  | .xorVxVy _ _ => ⟨"XOR_Vx__Vy", 0xF00F, 0x8003⟩
  | .addVxVy _ _ => ⟨"ADD_Vx__Vy", 0xF00F, 0x8004⟩
  | .subVxVy _ _ => ⟨"SUB_Vx__Vy", 0xF00F, 0x8005⟩
  | .shrVxVy _ _ => ⟨"SHR_Vx__Vy", 0xF00F, 0x8006⟩
  | .subnVxVy _ _ => ⟨"SUBN_Vx__Vy", 0xF00F, 0x8007⟩
  | .shlVxVy _ _ => ⟨"SHL_Vx__Vy", 0xF00F, 0x800E⟩
  | .sneVxVy _ _ => ⟨"SNE_Vx__Vy", 0xF00F, 0x9000⟩
  | .ldINnn _ => ⟨"LD_I__nnn", 0xF000, 0xA000⟩
  | .jpV0Nnn _ => ⟨"JP_V0__nnn", 0xF000, 0xB000⟩
  | .rndVxNn _ _ => ⟨"RND_Vx__nn", 0xF000, 0xC000⟩
  | .drwVxVyN _ _ _ => ⟨"DRW_Vx__Vy__n", 0xF000, 0xD000⟩
  | .skpVx _ => ⟨"SKP_Vx", 0xF0FF, 0xE09E⟩
  | .sknpVx _ => ⟨"SKNP_Vx", 0xF0FF, 0xE0A1⟩
  | .ldVxDt _ => ⟨"LD_Vx__DT", 0xF0FF, 0xF007⟩
  | .ldVxK _ => ⟨"LD_Vx__K", 0xF0FF, 0xF00A⟩
  | .ldDtVx _ => ⟨"LD_DT__Vx", 0xF0FF, 0xF015⟩
  | .ldStVx _ => ⟨"LD_ST__Vx", 0xF0FF, 0xF018⟩
  | .addIVx _ => ⟨"ADD_I__Vx", 0xF0FF, 0xF01E⟩
  | .ldFVx _ => ⟨"LD_F__Vx", 0xF0FF, 0xF029⟩
  | .ldBVx _ => ⟨"LD_B__Vx", 0xF0FF, 0xF033⟩
  | .ldMemVx _ => ⟨"LD__I___Vx", 0xF0FF, 0xF055⟩
  | .ldVxMem _ => ⟨"LD_Vx___I", 0xF0FF, 0xF065⟩

/-- An instruction is well formed when its row stands in the map. -/
def Instr.wellFormed (i : Instr) : Bool := opcodeTable.contains i.row

/-- A program image is well formed when the loader can write all of it: at most 3584 bytes (R62 (c), R256). -/
def imageWellFormed (image : List Byte) : Bool := decide (image.length ≤ Config.maxImage)

end Sys2Proof
end

