-- ==== Sys2Proof/Decode.lean ====
section
/-! DEFINITION. The fields of an instruction word (30_encoding.md R72), the decoder (R74, R75), and the encoder, written
from the six formats (R71). The decoder is a pure function of the 16-bit word (R70). -/

namespace Sys2Proof

/-- `op = w[15:12]`, the family (R72). -/
def opField (w : Word) : Nibble := w.extractLsb' 12 4

/-- The register that a 4-bit field selects (R73). -/
def regOf (b : Nibble) : Reg := ⟨b.toNat, b.isLt⟩

/-- The 4-bit field that selects a register (R73). -/
def regField (x : Reg) : Nibble := BitVec.ofNat 4 x.val

/-- `x = w[11:8]` (R72). -/
def xField (w : Word) : Reg := regOf (w.extractLsb' 8 4)

/-- `y = w[7:4]` (R72). -/
def yField (w : Word) : Reg := regOf (w.extractLsb' 4 4)

/-- `n = w[3:0]` (R72). -/
def nField (w : Word) : Nibble := w.extractLsb' 0 4

/-- `nn = w[7:0]` (R72). -/
def nnField (w : Word) : Byte := w.extractLsb' 0 8

/-- `nnn = w[11:0]` (R72; 90_conflicts.md C3). -/
def nnnField (w : Word) : Imm12 := w.extractLsb' 0 12

/-- Why bytes decode to no instruction. -/
inductive DecodeError where
  /-- The word matches no row of the opcode map (R75, R80). -/
  | illegalOpcode (w : Word)
  /-- Fewer than two bytes were given; the fetch of a cycle never does that (log entry 13). -/
  | truncated
  deriving DecidableEq, Repr

/-- Family 0: the three literal words (R74, R75). -/
def decode0 (w : Word) : Except DecodeError Instr :=
  if w = 0x0000 then .ok .nop
  else if w = 0x00E0 then .ok .cls
  else if w = 0x00EE then .ok .ret
  else .error (.illegalOpcode w)

/-- Family 8: the low nibble is the sub-opcode (R75). -/
def decode8 (w : Word) : Except DecodeError Instr :=
  match (nField w).toNat with
  | 0x0 => .ok (.ldVxVy (xField w) (yField w))
  | 0x1 => .ok (.orVxVy (xField w) (yField w))
  | 0x2 => .ok (.andVxVy (xField w) (yField w))
  | 0x3 => .ok (.xorVxVy (xField w) (yField w))
  | 0x4 => .ok (.addVxVy (xField w) (yField w))
  | 0x5 => .ok (.subVxVy (xField w) (yField w))
  | 0x6 => .ok (.shrVxVy (xField w) (yField w))
  | 0x7 => .ok (.subnVxVy (xField w) (yField w))
  | 0xE => .ok (.shlVxVy (xField w) (yField w))
  | _ => .error (.illegalOpcode w)

/-- Family E: the low byte is the sub-opcode (R75). -/
def decodeE (w : Word) : Except DecodeError Instr :=
  match (nnField w).toNat with
  | 0x9E => .ok (.skpVx (xField w))
  | 0xA1 => .ok (.sknpVx (xField w))
  | _ => .error (.illegalOpcode w)

/-- Family F: the low byte is the sub-opcode (R75). -/
def decodeF (w : Word) : Except DecodeError Instr :=
  match (nnField w).toNat with
  | 0x07 => .ok (.ldVxDt (xField w))
  | 0x0A => .ok (.ldVxK (xField w))
  | 0x15 => .ok (.ldDtVx (xField w))
  | 0x18 => .ok (.ldStVx (xField w))
  | 0x1E => .ok (.addIVx (xField w))
  | 0x29 => .ok (.ldFVx (xField w))
  | 0x33 => .ok (.ldBVx (xField w))
  | 0x55 => .ok (.ldMemVx (xField w))
  | 0x65 => .ok (.ldVxMem (xField w))
  | _ => .error (.illegalOpcode w)

/-- The decoder: top nibble first, then the sub-fields of the family (R74, R75). The last arm of the match takes no
4-bit value. -/
def decode (w : Word) : Except DecodeError Instr :=
  match (opField w).toNat with
  | 0x0 => decode0 w
  | 0x1 => .ok (.jpNnn (nnnField w))
  | 0x2 => .ok (.callNnn (nnnField w))
  | 0x3 => .ok (.seVxNn (xField w) (nnField w))
  | 0x4 => .ok (.sneVxNn (xField w) (nnField w))
  | 0x5 => if nField w = 0 then .ok (.seVxVy (xField w) (yField w)) else .error (.illegalOpcode w)
  | 0x6 => .ok (.ldVxNn (xField w) (nnField w))
  | 0x7 => .ok (.addVxNn (xField w) (nnField w))
  | 0x8 => decode8 w
  | 0x9 => if nField w = 0 then .ok (.sneVxVy (xField w) (yField w)) else .error (.illegalOpcode w)
  | 0xA => .ok (.ldINnn (nnnField w))
  | 0xB => .ok (.jpV0Nnn (nnnField w))
  | 0xC => .ok (.rndVxNn (xField w) (nnField w))
  | 0xD => .ok (.drwVxVyN (xField w) (yField w) (nField w))
  | 0xE => decodeE w
  | 0xF => decodeF w
  | _ => .error (.illegalOpcode w)

/-- Two bytes as one word, the first byte the more significant (20_memory.md R53, R56). -/
def wordOfBytes (hi lo : Byte) : Word := hi ++ lo

/-- The byte of a word that lies at the lower address (R53). -/
def highByte (w : Word) : Byte := w.extractLsb' 8 8

/-- The byte of a word that lies at the higher address (R53). -/
def lowByte (w : Word) : Byte := w.extractLsb' 0 8

/-- Decode the instruction at the head of a list of bytes and give the rest of the list (R70: two bytes, high first). -/
def decodeBytes : List Byte → Except DecodeError (Instr × List Byte)
  | hi :: lo :: rest =>
    match decode (wordOfBytes hi lo) with
    | .ok i => .ok (i, rest)
    | .error e => .error e
  | _ => .error .truncated

/-- The instruction read from a word given as the opcode table numbers its bits; every row has 16 (R70). A count below
16 leaves the bits above it 0; no instruction has more. -/
def decodeTableWord (nbits w : Nat) : Option Instr :=
  let word : Word := BitVec.ofNat 16 (w % 2 ^ nbits)
  if 16 < nbits then none
  else
    match decodeBytes [highByte word, lowByte word] with
    | .ok (i, _) => some i
    | .error _ => none

/-- Format NNN (R71). -/
def packNnn (op : Nibble) (nnn : Imm12) : Word := op ++ nnn

/-- Format XNN (R71). -/
def packXnn (op : Nibble) (x : Reg) (nn : Byte) : Word := op ++ regField x ++ nn

/-- Formats XY and XYN (R71): in XY the last nibble is the fixed sub-opcode. -/
def packXyn (op : Nibble) (x y : Reg) (n : Nibble) : Word := op ++ regField x ++ regField y ++ n

/-- The encoder: the word of an instruction (R71, R76). -/
def encode : Instr → Word
  | .nop => 0x0000
  | .cls => 0x00E0
  | .ret => 0x00EE
  | .jpNnn nnn => packNnn 0x1 nnn
  | .callNnn nnn => packNnn 0x2 nnn
  | .seVxNn x nn => packXnn 0x3 x nn
  | .sneVxNn x nn => packXnn 0x4 x nn
  | .seVxVy x y => packXyn 0x5 x y 0x0
  | .ldVxNn x nn => packXnn 0x6 x nn
  | .addVxNn x nn => packXnn 0x7 x nn
  | .ldVxVy x y => packXyn 0x8 x y 0x0
  | .orVxVy x y => packXyn 0x8 x y 0x1
  | .andVxVy x y => packXyn 0x8 x y 0x2
  | .xorVxVy x y => packXyn 0x8 x y 0x3
  | .addVxVy x y => packXyn 0x8 x y 0x4
  | .subVxVy x y => packXyn 0x8 x y 0x5
  | .shrVxVy x y => packXyn 0x8 x y 0x6
  | .subnVxVy x y => packXyn 0x8 x y 0x7
  | .shlVxVy x y => packXyn 0x8 x y 0xE
  | .sneVxVy x y => packXyn 0x9 x y 0x0
  | .ldINnn nnn => packNnn 0xA nnn
  | .jpV0Nnn nnn => packNnn 0xB nnn
  | .rndVxNn x nn => packXnn 0xC x nn
  | .drwVxVyN x y n => packXyn 0xD x y n
  | .skpVx x => packXnn 0xE x 0x9E
  | .sknpVx x => packXnn 0xE x 0xA1
  | .ldVxDt x => packXnn 0xF x 0x07
  | .ldVxK x => packXnn 0xF x 0x0A
  | .ldDtVx x => packXnn 0xF x 0x15
  | .ldStVx x => packXnn 0xF x 0x18
  | .addIVx x => packXnn 0xF x 0x1E
  | .ldFVx x => packXnn 0xF x 0x29
  | .ldBVx x => packXnn 0xF x 0x33
  | .ldMemVx x => packXnn 0xF x 0x55
  | .ldVxMem x => packXnn 0xF x 0x65

end Sys2Proof
end

