-- ==== Sys2Proof/Machine/State.lean ====
section
/-! DEFINITION. The state of CORE (10_state.md R20), the world around it as plain data (00_scope.md R6; 46_io.md R176,
R177), the ways a step can stop, and the state after reset (70_reset_and_hazards.md R250). -/

namespace Sys2Proof.Machine

/-- Memory: the listed bytes, by rising address, none of them 0; an address that is not listed reads 0, as every byte
does after reset (R250, R251). `Memory.wf` in Ops.lean states the form. -/
abbrev Memory := List Host.Cell

/-- `fault_cause` (R31). The numeric codes are `FaultCause.code` in Ops.lean. -/
inductive FaultCause where
  | none
  | memRange
  | illegalOpcode
  | stackUnderflow
  | stackOverflow
  deriving DecidableEq, Repr

/-- The four faults CORE raises, each with what it records (60_exceptions.md R200). Raising one is
`State.raise` in Ops.lean. -/
inductive Trap where
  /-- An access at or above 4096: the lowest offending effective address (R210). -/
  | memRange (a : Nat)
  /-- The fetched word is no instruction (R211). -/
  | illegalOpcode (w : Word)
  /-- A return with SP = 0: the address of the 00EE (R212). -/
  | stackUnderflow (pc : Word)
  /-- A call with SP = 16: the address of the 2nnn (R213). -/
  | stackOverflow (pc : Word)
  deriving DecidableEq, Repr

/-- A request CORE issues to a collaborator, with what it sends (R176). -/
inductive Request where
  | displayClear
  | displayDraw (cx cy : Byte) (bytes : List Byte)
  | keyDown (k : Byte)
  | keyWait
  | randomByte
  deriving DecidableEq, Repr

/-- What the host driver or the loader does next, between two cycles (00_scope.md R6, R7). -/
inductive HostMove where
  /-- Request one cycle. -/
  | cycle
  /-- Deliver a `TimerTick` (45_timers.md R163). -/
  | tick
  /-- Apply `Reset` (70_reset_and_hazards.md R250). -/
  | reset
  /-- The loader writes one byte (70_reset_and_hazards.md R256). -/
  | load (a : Nat) (b : Byte)
  deriving DecidableEq, Repr

/-- The world around CORE, as plain data: the MODEL's own, no state of CORE (log entries 1, 2, 8, 10, 15). The lists are
the inputs of the steps to come; `started`, `draws` and `requests` are a record of the steps that were. -/
structure Env where
  /-- The next moves of host and loader; when it is empty the host requests cycles. -/
  script      : List HostMove
  /-- A cycle has run since the last reset: the loader's window is closed (R6 (b)). Only a loader move reads it. -/
  started     : Bool
  /-- Scripted answers to `RandomByte`; when empty, free values answer. -/
  randomBytes : List Byte
  /-- Scripted answers to `DisplayDraw`. -/
  collisions  : List Bool
  /-- Scripted answers to `KeyDown`. -/
  keyStates   : List Bool
  /-- Scripted answers to `KeyWait`: nothing yet, or a code. -/
  keyPresses  : List (Option Nibble)
  /-- How many answers CORE has taken: only the index of the next free value. -/
  draws       : Nat
  /-- The requests issued so far, newest first. Nothing reads it. -/
  requests    : List Request
  deriving DecidableEq, Repr

/-- The architectural state of CORE: the eleven rows of R20, and no other component. -/
structure CoreState where
  /-- V0 to VF (R21). -/
  v          : Vector Byte 16
  /-- The index register (R24). -/
  i          : Word
  /-- The program counter (R25). -/
  pc         : Word
  /-- The number of stack slots in use (R28). -/
  sp         : Byte
  /-- The call stack (R28). -/
  stack      : Vector Word 16
  /-- The delay timer (R30). -/
  dt         : Byte
  /-- The sound timer (R30). -/
  st         : Byte
  /-- The 4096 bytes (R32). -/
  mem        : Memory
  /-- The fault latch (R31). -/
  halted     : Bool
  /-- The cause of the latched fault (R31). -/
  faultCause : FaultCause
  /-- The value recorded with the fault (R31). -/
  faultInfo  : Nat
  deriving DecidableEq, Repr

/-- What the host's `step : State → Outcome` runs on: the state of CORE, and beside it the inputs of the steps to come and
the model's record of the steps that were, which R20 keeps out of CORE's state (log entry 15). -/
structure State extends CoreState where
  /-- The world around CORE. -/
  env : Env
  deriving DecidableEq, Repr

/-- Why the model stops without a next state. CORE's own four faults are not here: raising one is a next state with
the fault latch set (R201; log entry 5). -/
inductive Fault where
  /-- Raised by 00EE when SP is above 16, so that the slot to pop does not exist. R28 says SP takes only the values 0
  to 16, and no run reaches such a state. Safe (log entry 7). -/
  | noSuchStackSlot (slot : Nat)
  deriving DecidableEq, Repr

/-- Why the model gives a step no meaning. -/
inductive Refusal where
  /-- Raised by `exec` for an instruction that has no meaning yet. No arm does. Safe. -/
  | notModelled (mnemonic : String)
  /-- Raised by a loader move after the first cycle, which R6 (b) and R256 exclude. Safe (log entry 8). -/
  | loaderWriteAfterStart
  /-- Raised by a loader move to an address at or above 4096: "a loader error outside CORE" (R256). Safe
  (log entry 8). -/
  | loaderWriteOutOfRange (a : Nat)
  deriving DecidableEq, Repr

/-- The outcome of a step or of an instruction. -/
abbrev Result := Host.Outcome State Fault Refusal

/-- The world around CORE in `State.reset`: nothing scripted, nothing asked yet (log entries 1, 2, 8, 10). -/
def Env.quiet : Env where
  script := []
  started := false
  randomBytes := []
  collisions := []
  keyStates := []
  keyPresses := []
  draws := 0
  requests := []

/-- The machine right after reset (R20, R250): everything zero but `pc`. -/
def State.reset : State where
  v := Vector.replicate 16 0
  i := 0
  pc := Config.pcReset
  sp := 0
  stack := Vector.replicate 16 0
  dt := 0
  st := 0
  mem := []
  halted := false
  faultCause := .none
  faultInfo := 0
  env := Env.quiet

end Sys2Proof.Machine
end

