-- ==== Sys2Proof/Machine/Ops.lean ====
section
/-! DEFINITION. The operations that every meaning is written over: memory (20_memory.md R54 to R57, R60), registers and
program counter (10_state.md R21 to R26), the call stack (R29), raising a fault (60_exceptions.md R201), the requests to
collaborators (46_io.md R176), and the moves of host and loader (45_timers.md R163; 70_reset_and_hazards.md R250,
R256). -/

namespace Sys2Proof.Machine

/-! ## Memory -/

/-- The byte at an address; an address not listed reads 0 (R32, R250). -/
def Memory.readByte : Memory → Nat → Byte
  | [], _ => 0
  | c :: m, a => if c.1 = a then c.2 else Memory.readByte m a

/-- Put a cell into its place by address. -/
def Memory.insertCell (c : Host.Cell) : Memory → Memory
  | [] => [c]
  | d :: m => if c.1 < d.1 then c :: d :: m else d :: Memory.insertCell c m

/-- Store a byte: the old cell of the address goes, and a cell for the new byte is put in unless the byte is 0. -/
def Memory.writeByte (m : Memory) (a : Nat) (b : Byte) : Memory :=
  let rest : Memory := m.filter (fun c => decide (c.1 ≠ a))
  if b = 0 then rest else Memory.insertCell (a, b) rest

/-- The canonical form: addresses strictly rising and below 4096, no byte equal to what an unlisted address reads as. -/
abbrev Memory.wf (m : Memory) : Prop :=
  m.Pairwise (fun c d => c.1 < d.1) ∧ ∀ c ∈ m, c.1 < Config.memSize ∧ c.2 ≠ 0

/-- `MemRead(a, 1)` (R54). -/
def memRead (m : Memory) (a : Nat) : Except Trap Byte :=
  if a < Config.memSize then .ok (m.readByte a) else .error (.memRange a)

/-- `MemWrite(a, 1, b)` (R55). -/
def memWrite (m : Memory) (a : Nat) (b : Byte) : Except Trap Memory :=
  if a < Config.memSize then .ok (m.writeByte a b) else .error (.memRange a)

/-- `MemRead(a, 2)`, used by fetch only: the lower address first and more significant (R53, R56). -/
def memRead2 (m : Memory) (a : Nat) : Except Trap Word :=
  match memRead m a with
  | .error t => .error t
  | .ok hi =>
    match memRead m (a + 1) with
    | .error t => .error t
    | .ok lo => .ok (wordOfBytes hi lo)

/-- The lowest address at or above 4096 among `base`, `base + 1`, ..., `base + len - 1`, if there is one: the check an
instruction makes of all its addresses before it accesses any (R60, R156). -/
def firstOutOfRange (base : Nat) : (len : Nat) → Option Nat
  | 0 => none
  | len + 1 =>
    match firstOutOfRange base len with
    | some a => some a
    | none => if base + len < Config.memSize then none else some (base + len)

/-- The bytes at `base`, `base + 1`, ... in ascending order (R60). -/
def Memory.readBlock (m : Memory) (base : Nat) : (len : Nat) → List Byte
  | 0 => []
  | len + 1 => m.readByte base :: Memory.readBlock m (base + 1) len

/-- Store bytes at `base`, `base + 1`, ... in ascending order (R60). -/
def Memory.writeBlock (m : Memory) (base : Nat) : List Byte → Memory
  | [] => m
  | b :: bs => Memory.writeBlock (m.writeByte base b) (base + 1) bs

/-! ## Registers and program counter -/

/-- `V[x]`: no register is hard-wired (R21). -/
def State.getV (s : State) (x : Reg) : Byte := s.v[x]

/-- `V[x] <- b` (R21). -/
def State.setV (s : State) (x : Reg) (b : Byte) : State := { s with v := s.v.set x b }

/-- `I <- a` (R24). -/
def State.setI (s : State) (a : Word) : State := { s with i := a }

/-- `pc <- a` (R26 (c), (d), (e)). -/
def State.setPc (s : State) (a : Word) : State := { s with pc := a }

/-- `DT <- b` (R30). -/
def State.setDt (s : State) (b : Byte) : State := { s with dt := b }

/-- `ST <- b` (R30). -/
def State.setSt (s : State) (b : Byte) : State := { s with st := b }

/-- Replace the memory. -/
def State.setMem (s : State) (m : Memory) : State := { s with mem := m }

/-- `pc <- (pc + 2) mod 65536` (R26 (a)). -/
def State.advance (s : State) : State := s.setPc (s.pc + Config.instrBytes)

/-- The pc write of every skip: 4 on when the condition holds, else 2 (R26 (b), R114). -/
def State.skipIf (s : State) (c : Bool) : State :=
  if c then s.setPc (s.pc + Config.instrBytes + Config.instrBytes) else s.advance

/-- `V[k] <- bytes[k]` for every k below the number of bytes; the other registers stay (R155). -/
def State.setVBlock (s : State) (bytes : List Byte) : State :=
  { s with v := Vector.ofFn fun k : Reg => (bytes[k.val]?).getD s.v[k] }

/-- `V[0]` to `V[x]`, `x + 1` bytes (R154). -/
def State.vBlock (s : State) (x : Reg) : List Byte := s.v.toList.take (x.val + 1)

/-! ## Faults -/

/-- The numeric code of a cause (R31, R200). -/
def FaultCause.code : FaultCause → Nat
  | .none => 0
  | .memRange => 1
  | .illegalOpcode => 2
  | .stackUnderflow => 3
  | .stackOverflow => 4

/-- The cause a fault latches (R200). -/
def Trap.cause : Trap → FaultCause
  | .memRange _ => .memRange
  | .illegalOpcode _ => .illegalOpcode
  | .stackUnderflow _ => .stackUnderflow
  | .stackOverflow _ => .stackOverflow

/-- The value a fault records (R200). -/
def Trap.info : Trap → Nat
  | .memRange a => a
  | .illegalOpcode w => w.toNat
  | .stackUnderflow pc => pc.toNat
  | .stackOverflow pc => pc.toNat

/-- `raise F(info)` applied to the state at the start of the cycle: the latch is set and nothing else changes (R201).
There is no return from it: only reset clears the latch (R204, R207). -/
def State.raise (s : State) (t : Trap) : State :=
  { s with halted := true, faultCause := t.cause, faultInfo := t.info }

/-- End a cycle begun in `s`: with the state the instruction leaves, or with a fault raised in `s` (R33, R201). -/
def complete (s : State) : Except Trap State → Result
  | .ok t => .next t
  | .error t => .next (s.raise t)

/-- The bytes of an instruction that reads memory, or the fault of its lowest bad address (R60, R156). -/
def State.loadBlock (s : State) (base len : Nat) : Except Trap (List Byte) :=
  match firstOutOfRange base len with
  | some a => .error (.memRange a)
  | none => .ok (s.mem.readBlock base len)

/-- The state after an instruction stores bytes, or the fault of its lowest bad address (R60, R156). -/
def State.storeBlock (s : State) (base : Nat) (bytes : List Byte) : Except Trap State :=
  match firstOutOfRange base bytes.length with
  | some a => .error (.memRange a)
  | none => .ok (s.setMem (s.mem.writeBlock base bytes))

/-! ## Call stack -/

/-- `Push(a)` (R29). -/
def State.push (s : State) (a : Word) : Except Trap State :=
  if Config.stackDepth ≤ s.sp.toNat then .error (.stackOverflow s.pc)
  else .ok { s with stack := s.stack.setIfInBounds s.sp.toNat a, sp := s.sp + 1 }

/-- The second half of `Pop()`, after the check for an empty stack: the word in the newest slot and the state with SP
one less; the slot keeps its content (R29). `none` when no such slot exists (log entry 7). -/
def State.popSlot (s : State) : Option (Word × State) :=
  match s.stack[(s.sp - 1).toNat]? with
  | some a => some (a, { s with sp := s.sp - 1 })
  | none => none

/-! ## Requests to the collaborators

Each operation below issues one request; the answer is the next scripted one, and a free value where none is scripted
(R176, R177; log entry 1). -/

/-- Count an answer taken and record the request (log entry 10). -/
def Env.ask (e : Env) (q : Request) : Env := { e with draws := e.draws + 1, requests := q :: e.requests }

/-- `DisplayClear()`: a request without an answer (R170). -/
def State.askClear (s : State) : State :=
  { s with env := { s.env with requests := .displayClear :: s.env.requests } }

/-- The answer to `RandomByte()`. -/
def State.randomAnswer (s : State) : Byte :=
  s.env.randomBytes.headD (Config.randomByte s.env.draws)

/-- The state once `RandomByte()` is answered. -/
def State.askRandom (s : State) : State :=
  { s with env := ({ s.env with randomBytes := s.env.randomBytes.tail }).ask .randomByte }

/-- The answer to `DisplayDraw(cx, cy, bytes)`: whether a pixel was erased. -/
def State.collisionAnswer (s : State) (cx cy : Byte) (bytes : List Byte) : Bool :=
  s.env.collisions.headD (Config.collision s.env.draws cx cy bytes)

/-- The state once `DisplayDraw(cx, cy, bytes)` is answered. -/
def State.askDraw (s : State) (cx cy : Byte) (bytes : List Byte) : State :=
  { s with env := ({ s.env with collisions := s.env.collisions.tail }).ask (.displayDraw cx cy bytes) }

/-- The answer to `KeyDown(k)`: whether the key is down now. -/
def State.keyDownAnswer (s : State) (k : Byte) : Bool :=
  s.env.keyStates.headD (Config.keyDown s.env.draws k)

/-- The state once `KeyDown(k)` is answered. -/
def State.askKeyDown (s : State) (k : Byte) : State :=
  { s with env := ({ s.env with keyStates := s.env.keyStates.tail }).ask (.keyDown k) }

/-- The answer to `KeyWait()`: nothing yet, or a key code. -/
def State.keyWaitAnswer (s : State) : Option Nibble :=
  s.env.keyPresses.headD (Config.keyWait s.env.draws)

/-- The state once `KeyWait()` is answered. -/
def State.askKeyWait (s : State) : State :=
  { s with env := ({ s.env with keyPresses := s.env.keyPresses.tail }).ask .keyWait }

/-! ## Moves of the host and the loader -/

/-- One timer's share of a tick: a timer at 0 stays at 0 (R163; decision D14). -/
def tickTimer (b : Byte) : Byte := if b = 0 then 0 else b - 1

/-- `TimerTick()` (R163). -/
def State.timerTick (s : State) : State := { s with dt := tickTimer s.dt, st := tickTimer s.st }

/-- `Reset()` (R250): CORE as in `State.reset`; the world around it stays, and the loader's window opens again
(log entry 12). -/
def State.hostReset (s : State) : State := { State.reset with env := { s.env with started := false } }

/-- One loader write, allowed before the first cycle only and bounds-checked like any other (R6 (b), R256;
log entry 8). -/
def loaderWrite (s : State) (a : Nat) (b : Byte) : Result :=
  if s.env.started then .refused .loaderWriteAfterStart
  else
    match memWrite s.mem a b with
    | .ok m => .next (s.setMem m)
    | .error _ => .refused (.loaderWriteOutOfRange a)

/-- The loader's moves for an image: byte k goes to 0x200 + k (R256). -/
def loaderMoves (base : Nat) : List Byte → List HostMove
  | [] => []
  | b :: bs => .load base b :: loaderMoves (base + 1) bs

/-- The speaker output of CORE, "in effect an output": the host drives a speaker while it holds (R30). -/
def State.speaker (s : State) : Bool := decide (0 < s.st.toNat)

/-- The fault outputs that the host observes (R206). -/
def State.faultOutputs (s : State) : Bool × Nat × Nat := (s.halted, s.faultCause.code, s.faultInfo)

end Sys2Proof.Machine
end

