-- ==== Sys2Proof/Machine/Operands.lean ====
section
/-! DEFINITION. The operand forms (30_encoding.md R73; 44_index_memory.md R156) beside the registers themselves: the
12-bit address immediate, the zero-extended register, the bytes at I, and the decimal digits of Fx33. -/

namespace Sys2Proof.Machine

/-- `zext_16(nnn)` (R73). -/
def zextImm (nnn : Imm12) : Word := nnn.setWidth 16

/-- `zext_16(b)` (R10). -/
def zextByte (b : Byte) : Word := b.setWidth 16

/-- `zext_8(k)` of a key code (R175). -/
def zextKey (k : Nibble) : Byte := k.setWidth 8

/-- The base of the one data addressing mode: I as a natural number, so that `I + k` does not wrap (R52, R156). -/
def State.base (s : State) : Nat := s.i.toNat

/-- The target of Bnnn (R104). -/
def State.indexedTarget (s : State) (nnn : Imm12) : Word := zextImm nnn + zextByte (s.getV 0)

/-- The hundreds, tens and units of a byte, each a number 0 to 9 in its own byte (R153). -/
def bcdDigits (a : Byte) : List Byte :=
  [BitVec.ofNat 8 (a.toNat / 100), BitVec.ofNat 8 (a.toNat / 10 % 10), BitVec.ofNat 8 (a.toNat % 10)]

/-- How many registers Fx55 and Fx65 move: V0 to Vx inclusive (R154, R155). -/
def blockLength (x : Reg) : Nat := x.val + 1

end Sys2Proof.Machine
end

