-- ==== Sys2Proof/Machine/Flags.lean ====
section
/-! DEFINITION. The flag computations (43_alu.md R139) and the two ways an ALU instruction ends. VF is the only flag and
takes the value 0 or 1 (10_state.md R22). -/

namespace Sys2Proof.Machine

/-- A flag as VF holds it (R22). -/
def flagByte (f : Bool) : Byte := if f then 1 else 0

/-- Carry of a + b: the exact sum is above 255 (R139 (c)). -/
def carryOut (a b : Byte) : Bool := decide (255 < a.toNat + b.toNat)

/-- No borrow in a - b (R139 (d)). -/
def noBorrow (a b : Byte) : Bool := decide (b.toNat ≤ a.toNat)

/-- The bit that leaves in a shift right (R139 (e)). -/
def lowBit (a : Byte) : Bool := a.getLsbD 0

/-- The bit that leaves in a shift left (R139 (e)). -/
def highBit (a : Byte) : Bool := a.getLsbD 7

/-- Write a result and no flag, then advance (R130 to R133, R121). -/
def State.writeResult (s : State) (x : Reg) (r : Byte) : State := (s.setV x r).advance

/-- Write a result, then the flag, then advance: with x = 15 the flag is what stays (R23, R139 (i)). -/
def State.writeResultFlag (s : State) (x : Reg) (r : Byte) (f : Bool) : State :=
  ((s.setV x r).setV vf (flagByte f)).advance

end Sys2Proof.Machine
end

