-- ==== Sys2Proof/Machine/Alu.lean ====
section
/-! DEFINITION. The register-to-register ALU (43_alu.md R130 to R139). -/

namespace Sys2Proof.Machine

/-- 8xy0 (R130). -/
def execLdVxVy (x y : Reg) (s : State) : Result := .next (s.writeResult x (s.getV y))

/-- 8xy1 (R131). -/
def execOrVxVy (x y : Reg) (s : State) : Result := .next (s.writeResult x (s.getV x ||| s.getV y))

/-- 8xy2 (R132). -/
def execAndVxVy (x y : Reg) (s : State) : Result := .next (s.writeResult x (s.getV x &&& s.getV y))

/-- 8xy3 (R133). -/
def execXorVxVy (x y : Reg) (s : State) : Result := .next (s.writeResult x (s.getV x ^^^ s.getV y))

/-- 8xy4 (R134). -/
def execAddVxVy (x y : Reg) (s : State) : Result :=
  .next (s.writeResultFlag x (s.getV x + s.getV y) (carryOut (s.getV x) (s.getV y)))

/-- 8xy5 (R135). -/
def execSubVxVy (x y : Reg) (s : State) : Result :=
  .next (s.writeResultFlag x (s.getV x - s.getV y) (noBorrow (s.getV x) (s.getV y)))

/-- 8xy6: y is not used (R136, R77). -/
def execShrVxVy (x _y : Reg) (s : State) : Result :=
  .next (s.writeResultFlag x (s.getV x >>> 1) (lowBit (s.getV x)))

/-- 8xy7 (R137). -/
def execSubnVxVy (x y : Reg) (s : State) : Result :=
  .next (s.writeResultFlag x (s.getV y - s.getV x) (noBorrow (s.getV y) (s.getV x)))

/-- 8xyE: y is not used (R138, R77). -/
def execShlVxVy (x _y : Reg) (s : State) : Result :=
  .next (s.writeResultFlag x (s.getV x <<< 1) (highBit (s.getV x)))

end Sys2Proof.Machine
end

