-- ==== Sys2Proof/Machine/Control.lean ====
section
/-! DEFINITION. The no-op and control transfer (40_control.md R100 to R104). -/

namespace Sys2Proof.Machine

/-- 0000 (R100). -/
def execNop (s : State) : Result := .next s.advance

/-- 00EE: pc becomes the popped value itself (R101). With SP above 16 there is no slot to pop (log entry 7). -/
def execRet (s : State) : Result :=
  if s.sp = 0 then .next (s.raise (.stackUnderflow s.pc))
  else
    match s.popSlot with
    | some (a, t) => .next (t.setPc a)
    | none => .fault (.noSuchStackSlot (s.sp - 1).toNat)

/-- 1nnn (R102). -/
def execJpNnn (nnn : Imm12) (s : State) : Result := .next (s.setPc (zextImm nnn))

/-- 2nnn: the address pushed is that of this instruction (R103). -/
def execCallNnn (nnn : Imm12) (s : State) : Result :=
  complete s ((s.push s.pc).map fun t => t.setPc (zextImm nnn))

/-- Bnnn (R104). -/
def execJpV0Nnn (nnn : Imm12) (s : State) : Result := .next (s.setPc (s.indexedTarget nnn))

end Sys2Proof.Machine
end

