-- ==== Sys2Proof/Machine/Immediate.lean ====
section
/-! DEFINITION. The register immediates (42_immediate.md R120, R121). -/

namespace Sys2Proof.Machine

/-- 6xnn (R120). -/
def execLdVxNn (x : Reg) (nn : Byte) (s : State) : Result := .next (s.writeResult x nn)

/-- 7xnn: wraps, and writes no flag (R121). -/
def execAddVxNn (x : Reg) (nn : Byte) (s : State) : Result := .next (s.writeResult x (s.getV x + nn))

end Sys2Proof.Machine
end

