-- ==== Sys2Proof/Machine/IndexMemory.lean ====
section
/-! DEFINITION. The index register and memory transfers (44_index_memory.md R150 to R156). I is the same after a
transfer as before. -/

namespace Sys2Proof.Machine

/-- Annn (R150). -/
def execLdINnn (nnn : Imm12) (s : State) : Result := .next (s.setI (zextImm nnn)).advance

/-- Fx1E: wraps at 16 bits, writes no flag, checks no address (R151). -/
def execAddIVx (x : Reg) (s : State) : Result := .next (s.setI (s.i + zextByte (s.getV x))).advance

/-- Fx29: the address is the open parameter's (R152; log entry 3). -/
def execLdFVx (x : Reg) (s : State) : Result := .next (s.setI (Config.fontAddr (s.getV x))).advance

/-- Fx33 (R153). -/
def execLdBVx (x : Reg) (s : State) : Result :=
  complete s ((s.storeBlock s.base (bcdDigits (s.getV x))).map State.advance)

/-- Fx55 (R154). -/
def execLdMemVx (x : Reg) (s : State) : Result :=
  complete s ((s.storeBlock s.base (s.vBlock x)).map State.advance)

/-- Fx65 (R155). -/
def execLdVxMem (x : Reg) (s : State) : Result :=
  complete s ((s.loadBlock s.base (blockLength x)).map fun bytes => (s.setVBlock bytes).advance)

end Sys2Proof.Machine
end

