-- ==== Sys2Proof/Machine/Io.lean ====
section
/-! DEFINITION. The instructions that ask a collaborator (46_io.md R170 to R177). The answers are inputs: scripted in
State, or free values (log entry 1). -/

namespace Sys2Proof.Machine

/-- 00E0: a request and no answer (R170). -/
def execCls (s : State) : Result := .next s.askClear.advance

/-- Cxnn (R171). -/
def execRndVxNn (x : Reg) (nn : Byte) (s : State) : Result :=
  .next (s.askRandom.writeResult x (s.randomAnswer &&& nn))

/-- Dxyn: the sprite's bytes are read before the request goes out, and VF takes the answer (R172). -/
def execDrwVxVyN (x y : Reg) (n : Nibble) (s : State) : Result :=
  complete s ((s.loadBlock s.base n.toNat).map fun bytes =>
    (s.askDraw (s.getV x) (s.getV y) bytes).writeResult vf
      (flagByte (s.collisionAnswer (s.getV x) (s.getV y) bytes)))

/-- Ex9E (R173). -/
def execSkpVx (x : Reg) (s : State) : Result :=
  .next ((s.askKeyDown (s.getV x)).skipIf (s.keyDownAnswer (s.getV x)))

/-- ExA1 (R174). -/
def execSknpVx (x : Reg) (s : State) : Result :=
  .next ((s.askKeyDown (s.getV x)).skipIf (!s.keyDownAnswer (s.getV x)))

/-- What Fx0A does with the keyboard's answer: without a key it holds, and CORE's state stays (R175). -/
def State.takeKey (s : State) (x : Reg) : Option Nibble → State
  | none => s
  | some k => s.writeResult x (zextKey k)

/-- Fx0A (R175; log entry 9). -/
def execLdVxK (x : Reg) (s : State) : Result := .next (s.askKeyWait.takeKey x s.keyWaitAnswer)

end Sys2Proof.Machine
end

