-- ==== Sys2Proof/Machine/Timers.lean ====
section
/-! DEFINITION. The timer instructions (45_timers.md R160 to R162). The countdown is the host's: `State.timerTick`. -/

namespace Sys2Proof.Machine

/-- Fx07 (R160). -/
def execLdVxDt (x : Reg) (s : State) : Result := .next (s.writeResult x s.dt)

/-- Fx15 (R161). -/
def execLdDtVx (x : Reg) (s : State) : Result := .next (s.setDt (s.getV x)).advance

/-- Fx18 (R162). -/
def execLdStVx (x : Reg) (s : State) : Result := .next (s.setSt (s.getV x)).advance

end Sys2Proof.Machine
end

