-- ==== Sys2Proof/Machine/Cycle.lean ====
section
/-! DEFINITION. Fetch, the cycle (10_state.md R33), and one move of the outside world (00_scope.md R6). -/

namespace Sys2Proof.Machine

/-- `Fetch()` (20_memory.md R57). -/
def State.fetch (s : State) : Except Trap Word := memRead2 s.mem s.pc.toNat

/-- Fetch and decode: the instruction the cycle executes, or the fault in the order of 60_exceptions.md R214. -/
def State.fetchDecode (s : State) : Except Trap Instr :=
  match s.fetch with
  | .error t => .error t
  | .ok w =>
    match decode w with
    | .ok i => .ok i
    | .error _ => .error (.illegalOpcode w)

/-- A cycle has begun: the loader's window closes (R6 (b); log entry 8). -/
def State.markStarted (s : State) : State := { s with env := { s.env with started := true } }

/-- `Cycle()` (R33). While halted there is no cycle: nothing changes (R204; log entry 6). -/
def cycle (s : State) : Result :=
  if s.halted then .next s
  else
    match s.markStarted.fetchDecode with
    | .ok i => exec i s.markStarted
    | .error t => .next (s.markStarted.raise t)

/-- The script's next move is taken. -/
def State.popScript (s : State) : State := { s with env := { s.env with script := s.env.script.tail } }

/-- One move of the outside world. -/
def hostMove (m : HostMove) (s : State) : Result :=
  match m with
  | .cycle => cycle s
  | .tick => .next s.timerTick
  | .reset => .next s.hostReset
  | .load a b => loaderWrite s a b

/-- The move that comes next: an empty script means that the host requests a cycle (log entry 2). -/
def State.nextMove (s : State) : HostMove := s.env.script.headD .cycle

/-- Put a word where the next cycle fetches, and make the next step that cycle: nothing scripted before it, no fault
latched, and a pc that can be fetched from (log entry 12). -/
def State.placeWord (s : State) (w : Word) : State :=
  let pc : Word := if s.pc.toNat + 1 < Config.memSize then s.pc else Config.pcReset
  let mem := (s.mem.writeByte pc.toNat (highByte w)).writeByte (pc.toNat + 1) (lowByte w)
  if s.halted then
    { s with pc := pc, mem := mem, halted := false, faultCause := .none, faultInfo := 0,
             env := { s.env with script := [] } }
  else { s with pc := pc, mem := mem, env := { s.env with script := [] } }

end Sys2Proof.Machine
end

