-- ==== Sys2Proof/Machine/Step.lean ====
section
/-! DEFINITION. One step: the next move of the outside world, which is a cycle of CORE unless the script in State says
otherwise (00_scope.md R5 to R7; log entry 2). -/

namespace Sys2Proof.Machine

/-- One step. -/
def step (s : State) : Host.Outcome State Fault Refusal := hostMove s.nextMove s.popScript

/-- `s` with the instruction of these bits where `step` fetches its next one, so that `step` runs it. -/
def State.withFetchWord (s : State) (nbits w : Nat) : State := s.placeWord (BitVec.ofNat 16 (w % 2 ^ nbits))

end Sys2Proof.Machine
end

