-- ==== Sys2Proof/Safety.lean ====
section
/-! DEFINITION. What a good state is and what the end of a run is, in the terms the statements use. -/

namespace Sys2Proof.Machine

/-- The invariant of CORE: what the spec says of every state that a run from reset reaches. -/
structure State.Inv (s : State) : Prop where
  /-- Memory keeps its canonical form, within 4096 bytes (R50). -/
  mem_wf : s.mem.wf
  /-- "SP takes only the values 0 to 16" (R28). -/
  sp_le : s.sp.toNat ≤ Config.stackDepth
  /-- "So pc is always below 0x10FF" (R27). -/
  pc_lt : s.pc.toNat < 0x10FF
  /-- A slot holds an earlier pc of a call, at most 0xFFE, or 0 (R27, R101 (c)). -/
  stack_le : ∀ j : Fin 16, s.stack[j].toNat ≤ 0xFFE
  /-- `fault_info` is "natural number below 2^17" (R20, R52). -/
  info_lt : s.faultInfo < 2 ^ 17
  /-- A cause is latched exactly while CORE is halted (R31). -/
  halted_iff : s.halted = true ↔ s.faultCause ≠ .none
  /-- Nothing is recorded while no fault is latched (R20, R205). -/
  info_zero : s.halted = false → s.faultInfo = 0

/-- Two states that agree on all of CORE's state (R20); the world around it may differ. -/
abbrev State.SameCore (s t : State) : Prop := s.toCoreState = t.toCoreState

/-- Two states in which every question CORE could ask next gets the same answer (R177). -/
def State.SameAnswers (s t : State) : Prop :=
  s.randomAnswer = t.randomAnswer ∧ s.keyWaitAnswer = t.keyWaitAnswer ∧
  (∀ k, s.keyDownAnswer k = t.keyDownAnswer k) ∧
  ∀ cx cy bytes, s.collisionAnswer cx cy bytes = t.collisionAnswer cx cy bytes

/-- A good final state is never a halted one (R204). -/
def State.good (s : State) : Bool := !s.halted

/-- The end of a run, by convention: the next instruction is a jump to itself (R258; decision D25). -/
def State.atSelfJump (s : State) : Bool :=
  match s.fetchDecode with
  | .ok (.jpNnn nnn) => zextImm nnn == s.pc
  | _ => false

end Sys2Proof.Machine
end

