-- ==== Sys2Proof/Certificates/Slice0/Obligations.lean ====
section
/-! DEFINITION. The statements for the provers. Each docstring names the rules of spec/ it comes from, and the decision of
92_eei_decisions.md or the log entry it rests on where the spec's source leaves a point open. -/

namespace Sys2Proof.Claims

open Sys2Proof.Machine

/-- `(pc + k) mod 65536`. -/
def pcPlus (s : State) (k : Nat) : Word := BitVec.ofNat 16 ((s.pc.toNat + k) % 65536)

/-- The state with the fault latch set and nothing else changed (R201). -/
def latched (s : State) (c : FaultCause) (info : Nat) : State :=
  { s with halted := true, faultCause := c, faultInfo := info }

/-- The instruction word at pc. -/
def wordAtPc (s : State) : Word := wordOfBytes (s.mem.readByte s.pc.toNat) (s.mem.readByte (s.pc.toNat + 1))

/-- The number a register holds. -/
def num (s : State) (r : Reg) : Nat := (s.getV r).toNat

/-- The instructions that skip (R26 (b)). -/
def isSkip : Instr → Prop
  | .seVxNn _ _ | .sneVxNn _ _ | .seVxVy _ _ | .sneVxVy _ _ | .skpVx _ | .sknpVx _ => True
  | _ => False

/-- The instructions that set pc themselves (R26 (c), (d), (e)). -/
def setsPc : Instr → Prop
  | .jpNnn _ | .callNnn _ | .jpV0Nnn _ | .ret => True
  | _ => False

/-- The instructions that write VF as a flag (R22). -/
def writesFlag : Instr → Prop
  | .addVxVy _ _ | .subVxVy _ _ | .subnVxVy _ _ | .shrVxVy _ _ | .shlVxVy _ _ | .drwVxVyN _ _ _ => True
  | _ => False

/-- The registers an instruction names as destinations, the flag not counted (R21, R22). -/
def hasDest : Instr → Reg → Prop
  | .ldVxNn x _, r | .addVxNn x _, r | .rndVxNn x _, r => r = x
  | .ldVxVy x _, r | .orVxVy x _, r | .andVxVy x _, r | .xorVxVy x _, r => r = x
  | .addVxVy x _, r | .subVxVy x _, r | .subnVxVy x _, r | .shrVxVy x _, r | .shlVxVy x _, r => r = x
  | .ldVxDt x, r | .ldVxK x, r => r = x
  | .ldVxMem x, r => r ≤ x
  | _, _ => False

/-- The instructions that ask a collaborator (46_io.md). -/
def asks : Instr → Prop
  | .cls | .rndVxNn _ _ | .drwVxVyN _ _ _ | .skpVx _ | .sknpVx _ | .ldVxK _ => True
  | _ => False

end Sys2Proof.Claims

open Sys2Proof Sys2Proof.Machine Sys2Proof.Claims

/-! ## Encoding and decoding -/

/-- 30_encoding.md R70 to R73, R76: decoding the encoded word gives the instruction back, with every operand at every
value the encoding admits. The `y` of 8xy6 and 8xyE is kept as written (log entry 14). -/
def Obligations.DecodeOfEncodeIsTheInstruction : Prop :=
  ∀ i : Instr, i.wellFormed = true → decode (encode i) = .ok i

/-- A word that decodes is the word the encoder gives its instruction: no bit is lost between the word and the term. That no
two words decode to one TERM is the MODEL's choice for 8xy6 and 8xyE, whose `y` the term keeps (log entry 14); by R77 the
sixteen words that differ in it are the same instruction, and ShiftsMoveOneBitIntoVF says that their effect is one. -/
def Obligations.EncodeOfDecodeIsTheWord : Prop :=
  ∀ (w : Word) (i : Instr), decode w = .ok i → encode i = w

/-- R76: the map has 35 rows, a word decodes to an instruction of a row exactly when `w AND mask = match` of that row,
no word matches two rows, and every other word is illegal. -/
def Obligations.DecoderFollowsTheOpcodeMap : Prop :=
  opcodeTable.length = 35 ∧
  (∀ (r : Row) (w : Word), r ∈ opcodeTable → (w &&& r.mask = r.fixed ↔ ∃ i, decode w = .ok i ∧ i.row = r)) ∧
  (∀ (r q : Row) (w : Word), r ∈ opcodeTable → q ∈ opcodeTable →
    w &&& r.mask = r.fixed → w &&& q.mask = q.fixed → r = q) ∧
  ∀ w : Word, (∀ r ∈ opcodeTable, w &&& r.mask ≠ r.fixed) → decode w = .error (.illegalOpcode w)

/-- A sanity check of words written out from R76: one or more of every format, and illegal neighbours (R80). -/
def Obligations.SampleWordsDecodeAsTheMapSays : Prop :=
  decode 0x00E0 = .ok .cls ∧ decode 0x1234 = .ok (.jpNnn 0x234) ∧ decode 0x3A7F = .ok (.seVxNn 0xA 0x7F) ∧
  decode 0x8AB7 = .ok (.subnVxVy 0xA 0xB) ∧ decode 0xD125 = .ok (.drwVxVyN 1 2 5) ∧
  decode 0xF365 = .ok (.ldVxMem 3) ∧ decode 0x5AB1 = .error (.illegalOpcode 0x5AB1) ∧
  decode 0x0123 = .error (.illegalOpcode 0x0123)

/-! ## Memory, fetch and the cycle -/

/-- 20_memory.md R54, R55: an access at or above 4096 faults with its address; a byte written is read back, every other
address reads as before, and the canonical form of the memory is kept. -/
def Obligations.MemoryReadGivesTheLastWrite : Prop :=
  ∀ (m : Memory) (a : Nat) (b : Byte),
    (4096 ≤ a → memRead m a = .error (.memRange a) ∧ memWrite m a b = .error (.memRange a)) ∧
    (a < 4096 → ∃ n, memWrite m a b = .ok n ∧ memRead n a = .ok b ∧ (∀ c, c ≠ a → memRead n c = memRead m c) ∧
      (m.wf → n.wf))

/-- R57, R56, R53; the order of the two checks is the spec's decision D23: the word at pc, high byte first, or the
fault of the lower bad address. -/
def Obligations.FetchReadsTwoBytesHighFirst : Prop :=
  ∀ s : State,
    (s.pc.toNat + 1 < 4096 → ∃ w : Word, s.fetch = .ok w ∧
      w.toNat = (s.mem.readByte s.pc.toNat).toNat * 256 + (s.mem.readByte (s.pc.toNat + 1)).toNat) ∧
    (s.pc.toNat = 4095 → s.fetch = .error (.memRange 4096)) ∧
    (4096 ≤ s.pc.toNat → s.fetch = .error (.memRange s.pc.toNat))

/-- 10_state.md R33: when the host's next move is a cycle, CORE is not halted, and the two bytes at pc decode to an
instruction, the step runs exactly it. What the step adds is in the world around CORE only: the script's move is taken
and the loader's window closes (log entries 2 and 8). -/
def Obligations.StepRunsTheDecodedInstruction : Prop :=
  ∀ (s : State) (i : Instr), s.nextMove = .cycle → s.halted = false → s.pc.toNat + 1 < 4096 →
    decodeBytes [s.mem.readByte s.pc.toNat, s.mem.readByte (s.pc.toNat + 1)] = .ok (i, []) →
    step s = exec i { s with env := { s.env with script := s.env.script.tail, started := true } }

/-- 60_exceptions.md R211: a word that is none of the 35 instructions raises IllegalOpcode with the word, pc stays, and
no register or request is touched; the host observes code 2 and the word (R31, R206). The latch, its code and the precise
fault are decisions D2 to D4; the loader's window closes as in any cycle (log entry 8). -/
def Obligations.IllegalWordFaultsAndChangesNothingElse : Prop :=
  ∀ s : State, s.halted = false → s.pc.toNat + 1 < 4096 → legalWord (wordAtPc s) = false →
    ∃ t, cycle s = .next t ∧
      t = latched { s with env := { s.env with started := true } } .illegalOpcode (wordAtPc s).toNat ∧
      t.faultOutputs = (true, 2, (wordAtPc s).toNat)

/-- R210 (a), (b), R214: a fetch that leaves the 4096 bytes raises MemRange before anything is decoded; the recorded
address is the lower bad one (decision D23), the latch and code 1 are decisions D2 and D3 (log entry 5). -/
def Obligations.FetchOutOfRangeFaults : Prop :=
  ∀ s : State, s.halted = false →
    (4096 ≤ s.pc.toNat → ∃ t, cycle s = .next t ∧
      t = latched { s with env := { s.env with started := true } } .memRange s.pc.toNat ∧
      t.faultOutputs = (true, 1, s.pc.toNat)) ∧
    (s.pc.toNat = 4095 → ∃ t, cycle s = .next t ∧
      t = latched { s with env := { s.env with started := true } } .memRange 4096 ∧
      t.faultOutputs = (true, 1, 4096))

/-! ## Control transfer -/

/-- 40_control.md R100: only 0x0000 is NOP, every 0nnn but the three literal words is illegal, zero-filled memory is a
run of NOPs, and NOP changes pc alone. -/
def Obligations.NopAdvancesAndChangesNothingElse : Prop :=
  (∀ w : Word, decode w = .ok .nop ↔ w = 0x0000) ∧
  (∀ w : Word, opField w = 0 → w ≠ 0x0000 → w ≠ 0x00E0 → w ≠ 0x00EE → decode w = .error (.illegalOpcode w)) ∧
  (∀ s : State, s.mem.readByte s.pc.toNat = 0 → s.mem.readByte (s.pc.toNat + 1) = 0 →
    s.pc.toNat + 1 < 4096 → s.fetchDecode = .ok .nop) ∧
  ∀ s : State, exec .nop s = .next { s with pc := pcPlus s 2 }

/-- R102: the target is nnn itself, unchecked; a jump to its own address changes no state; a target of 0xFFF makes the
next fetch fault. -/
def Obligations.JumpSetsPcToTheTarget : Prop :=
  (∀ w : Word, opField w = 0x1 → decode w = .ok (.jpNnn (nnnField w))) ∧
  (∀ (nnn : Imm12) (s : State), exec (.jpNnn nnn) s = .next { s with pc := BitVec.ofNat 16 nnn.toNat }) ∧
  (∀ (nnn : Imm12) (s : State), s.pc.toNat = nnn.toNat → exec (.jpNnn nnn) s = .next s) ∧
  ∀ s : State, s.pc = 0xFFF → s.fetch = .error (.memRange 0x1000)

/-- R103 with R28, R29; the meaning of SP is decision D5, the check D6: with a free slot the address pushed is that of
the call itself and pc is nnn without any +2; with sixteen slots in use the call faults and changes nothing else. -/
def Obligations.CallPushesItsOwnAddress : Prop :=
  (∀ w : Word, opField w = 0x2 → decode w = .ok (.callNnn (nnnField w))) ∧
  ∀ (nnn : Imm12) (s : State),
    (∀ j : Fin 16, s.sp.toNat = j.val → exec (.callNnn nnn) s = .next { s with
      stack := s.stack.set j.val s.pc, sp := BitVec.ofNat 8 (j.val + 1), pc := BitVec.ofNat 16 nnn.toNat }) ∧
    (16 ≤ s.sp.toNat → exec (.callNnn nnn) s = .next (latched s .stackOverflow s.pc.toNat))

/-- R101 with R28, R29 (decisions D5, D6): with one to sixteen slots in use pc becomes exactly the newest slot's word and
the slot keeps it; with none in use the return faults and changes nothing else. -/
def Obligations.ReturnPopsTheNewestSlot : Prop :=
  (∀ w : Word, decode w = .ok .ret ↔ w = 0x00EE) ∧
  ∀ s : State,
    (∀ j : Fin 16, s.sp.toNat = j.val + 1 →
      exec .ret s = .next { s with sp := BitVec.ofNat 8 j.val, pc := s.stack[j] }) ∧
    (s.sp.toNat = 0 → exec .ret s = .next (latched s .stackUnderflow s.pc.toNat))

/-- The MODEL's choice (log entry 7), for the values of SP that R28 excludes: no slot exists to pop, and the return stops
by name. -/
def Obligations.ReturnWithoutASlotStops : Prop :=
  ∀ s : State, 16 < s.sp.toNat → exec .ret s = .fault (.noSuchStackSlot (s.sp.toNat - 1))

/-- R104: nnn plus V0 whatever the x nibble, not reduced to 12 bits; the sum 0x1000 makes the next fetch fault. -/
def Obligations.IndexedJumpAddsV0 : Prop :=
  (∀ w : Word, opField w = 0xB → decode w = .ok (.jpV0Nnn (nnnField w))) ∧
  (∀ (nnn : Imm12) (s : State), ∃ t, exec (.jpV0Nnn nnn) s = .next t ∧ t = { s with pc := t.pc } ∧
    t.pc.toNat = nnn.toNat + num s 0) ∧
  ∀ s : State, s.pc = 0x1000 → s.fetch = .error (.memRange 0x1000)

/-- R105, 70_reset_and_hazards.md R259: after a call, whatever runs without touching the stack, the return lands on the
call itself with the stack at its depth before the call. -/
def Obligations.ReturnLandsOnTheCall : Prop :=
  ∀ (nnn : Imm12) (s : State), s.sp.toNat < 16 → ∃ t, exec (.callNnn nnn) s = .next t ∧
    ∀ u : State, u.stack = t.stack → u.sp = t.sp →
      exec .ret u = .next { u with pc := s.pc, sp := s.sp }

/-! ## Skips -/

/-- 41_skips.md R110 to R113: each skip compares, writes pc alone, and goes 4 on when its condition holds, else 2; 5xyn
and 9xyn with n other than 0 are illegal. -/
def Obligations.RegisterSkipsMoveFourOrTwo : Prop :=
  (∀ w : Word, opField w = 0x3 → decode w = .ok (.seVxNn (xField w) (nnField w))) ∧
  (∀ w : Word, opField w = 0x4 → decode w = .ok (.sneVxNn (xField w) (nnField w))) ∧
  (∀ w : Word, opField w = 0x5 →
    decode w = if nField w = 0 then .ok (.seVxVy (xField w) (yField w)) else .error (.illegalOpcode w)) ∧
  (∀ w : Word, opField w = 0x9 →
    decode w = if nField w = 0 then .ok (.sneVxVy (xField w) (yField w)) else .error (.illegalOpcode w)) ∧
  ∀ (x y : Reg) (nn : Byte) (s : State),
    exec (.seVxNn x nn) s = .next { s with pc := pcPlus s (if num s x = nn.toNat then 4 else 2) } ∧
    exec (.sneVxNn x nn) s = .next { s with pc := pcPlus s (if num s x = nn.toNat then 2 else 4) } ∧
    exec (.seVxVy x y) s = .next { s with pc := pcPlus s (if num s x = num s y then 4 else 2) } ∧
    exec (.sneVxVy x y) s = .next { s with pc := pcPlus s (if num s x = num s y then 2 else 4) }

/-- 46_io.md R173, R174; the distance is decision D10, the unmasked key number D11: one request with the whole byte, then
4 on or 2 on by the answer; for one answer exactly one of the two skips. The answer is an input (log entry 1). -/
def Obligations.KeySkipsFollowTheAnswer : Prop :=
  ∀ (x : Reg) (s : State), ∃ t u, exec (.skpVx x) s = .next t ∧ exec (.sknpVx x) s = .next u ∧
    t = { s with pc := pcPlus s (if s.keyDownAnswer (s.getV x) then 4 else 2), env := t.env } ∧
    u = { s with pc := pcPlus s (if s.keyDownAnswer (s.getV x) then 2 else 4), env := t.env } ∧
    t.env.requests = .keyDown (s.getV x) :: s.env.requests ∧
    ∀ d rest, s.env.keyStates = d :: rest → s.keyDownAnswer (s.getV x) = d ∧ t.env.keyStates = rest

/-! ## Immediates and the ALU -/

/-- 42_immediate.md R120: the destination takes nn as it stands, and no other register changes. -/
def Obligations.LoadImmediateSetsTheRegister : Prop :=
  (∀ w : Word, opField w = 0x6 → decode w = .ok (.ldVxNn (xField w) (nnField w))) ∧
  ∀ (x : Reg) (nn : Byte) (s : State), ∃ t, exec (.ldVxNn x nn) s = .next t ∧
    t = { s with v := t.v, pc := pcPlus s 2 } ∧ ∀ r : Reg, t.getV r = if r = x then nn else s.getV r

/-- R121: the sum wraps at 256 and no flag is written; with x = 15 the sum is what VF holds (the spec's derivation from
its pseudocode, 90_conflicts.md C5). -/
def Obligations.AddImmediateWrapsWithoutFlag : Prop :=
  (∀ w : Word, opField w = 0x7 → decode w = .ok (.addVxNn (xField w) (nnField w))) ∧
  ∀ (x : Reg) (nn : Byte) (s : State), ∃ t, exec (.addVxNn x nn) s = .next t ∧
    t = { s with v := t.v, pc := pcPlus s 2 } ∧
    ∀ r : Reg, num t r = if r = x then (num s x + nn.toNat) % 256 else num s r

/-- 43_alu.md R130: Vx takes Vy, and nothing else changes but pc. -/
def Obligations.CopyRegisterSetsVx : Prop :=
  (∀ w : Word, opField w = 0x8 → nField w = 0x0 → decode w = .ok (.ldVxVy (xField w) (yField w))) ∧
  ∀ (x y : Reg) (s : State), ∃ t, exec (.ldVxVy x y) s = .next t ∧
    t = { s with v := t.v, pc := pcPlus s 2 } ∧ ∀ r : Reg, t.getV r = if r = x then s.getV y else s.getV r

/-- R131, R132, R133: the three bitwise operations, bit by bit; that VF is left alone unless x = 15 is decision D24. -/
def Obligations.LogicWorksBitByBit : Prop :=
  (∀ w : Word, opField w = 0x8 → nField w = 0x1 → decode w = .ok (.orVxVy (xField w) (yField w))) ∧
  (∀ w : Word, opField w = 0x8 → nField w = 0x2 → decode w = .ok (.andVxVy (xField w) (yField w))) ∧
  (∀ w : Word, opField w = 0x8 → nField w = 0x3 → decode w = .ok (.xorVxVy (xField w) (yField w))) ∧
  ∀ (x y : Reg) (s : State), ∃ o a e,
    exec (.orVxVy x y) s = .next o ∧ exec (.andVxVy x y) s = .next a ∧ exec (.xorVxVy x y) s = .next e ∧
    o = { s with v := o.v, pc := pcPlus s 2 } ∧ a = { s with v := a.v, pc := pcPlus s 2 } ∧
    e = { s with v := e.v, pc := pcPlus s 2 } ∧
    (∀ r : Reg, r ≠ x → o.getV r = s.getV r ∧ a.getV r = s.getV r ∧ e.getV r = s.getV r) ∧
    ∀ k < 8, (o.getV x).getLsbD k = ((s.getV x).getLsbD k || (s.getV y).getLsbD k) ∧
      (a.getV x).getLsbD k = ((s.getV x).getLsbD k && (s.getV y).getLsbD k) ∧
      (e.getV x).getLsbD k = ((s.getV x).getLsbD k != (s.getV y).getLsbD k)

/-- R134, R139 (b), (c): the sum wraps, VF is the carry, always written; that the flag stays when x = 15 is decision D8
(R23). -/
def Obligations.AddSetsTheCarry : Prop :=
  (∀ w : Word, opField w = 0x8 → nField w = 0x4 → decode w = .ok (.addVxVy (xField w) (yField w))) ∧
  ∀ (x y : Reg) (s : State), ∃ t, exec (.addVxVy x y) s = .next t ∧
    t = { s with v := t.v, pc := pcPlus s 2 } ∧
    ∀ r : Reg, num t r =
      if r = 15 then (if num s x + num s y > 255 then 1 else 0)
      else if r = x then (num s x + num s y) % 256
      else num s r

/-- R135, R137, R139 (d): both subtractions wrap, and VF is 1 exactly when there is no borrow; that the flag stays when
x = 15 is decision D8 (R23). -/
def Obligations.SubtractSetsNoBorrow : Prop :=
  (∀ w : Word, opField w = 0x8 → nField w = 0x5 → decode w = .ok (.subVxVy (xField w) (yField w))) ∧
  (∀ w : Word, opField w = 0x8 → nField w = 0x7 → decode w = .ok (.subnVxVy (xField w) (yField w))) ∧
  ∀ (x y : Reg) (s : State), ∃ t u, exec (.subVxVy x y) s = .next t ∧ exec (.subnVxVy x y) s = .next u ∧
    t = { s with v := t.v, pc := pcPlus s 2 } ∧ u = { s with v := u.v, pc := pcPlus s 2 } ∧
    (∀ r : Reg, num t r =
      if r = 15 then (if num s x ≥ num s y then 1 else 0)
      else if r = x then (if num s x ≥ num s y then num s x - num s y else num s x + 256 - num s y)
      else num s r) ∧
    ∀ r : Reg, num u r =
      if r = 15 then (if num s y ≥ num s x then 1 else 0)
      else if r = x then (if num s y ≥ num s x then num s y - num s x else num s y + 256 - num s x)
      else num s r

/-- R136, R138, R139 (e), 30_encoding.md R77: one bit position, the bit that leaves goes to VF, and y plays no part;
that y is ignored is decision D24, that the flag stays when x = 15 is D8. -/
def Obligations.ShiftsMoveOneBitIntoVF : Prop :=
  (∀ w : Word, opField w = 0x8 → nField w = 0x6 → decode w = .ok (.shrVxVy (xField w) (yField w))) ∧
  (∀ w : Word, opField w = 0x8 → nField w = 0xE → decode w = .ok (.shlVxVy (xField w) (yField w))) ∧
  ∀ (x y z : Reg) (s : State), ∃ t u, exec (.shrVxVy x y) s = .next t ∧ exec (.shlVxVy x y) s = .next u ∧
    exec (.shrVxVy x z) s = .next t ∧ exec (.shlVxVy x z) s = .next u ∧
    t = { s with v := t.v, pc := pcPlus s 2 } ∧ u = { s with v := u.v, pc := pcPlus s 2 } ∧
    (∀ r : Reg, num t r =
      if r = 15 then num s x % 2 else if r = x then num s x / 2 else num s r) ∧
    ∀ r : Reg, num u r =
      if r = 15 then num s x / 128 else if r = x then num s x * 2 % 256 else num s r

/-! ## Index register and memory transfers -/

/-- 44_index_memory.md R150: I takes nnn, zero-extended. -/
def Obligations.LoadIndexSetsI : Prop :=
  (∀ w : Word, opField w = 0xA → decode w = .ok (.ldINnn (nnnField w))) ∧
  ∀ (nnn : Imm12) (s : State),
    exec (.ldINnn nnn) s = .next { s with i := BitVec.ofNat 16 nnn.toNat, pc := pcPlus s 2 }

/-- R151: the sum wraps at 65536 and not at 4096, and VF is left alone (decision D24). -/
def Obligations.AddIndexWrapsAtSixteenBits : Prop :=
  (∀ w : Word, opField w = 0xF → nnField w = 0x1E → decode w = .ok (.addIVx (xField w))) ∧
  ∀ (x : Reg) (s : State),
    exec (.addIVx x) s = .next { s with i := BitVec.ofNat 16 ((s.i.toNat + num s x) % 65536), pc := pcPlus s 2 }

/-- R152, decision D13: I takes the open parameter's value, which depends on Vx alone (log entry 3); two registers with
the same value give the same address. Holds for every FontAddr. -/
def Obligations.FontAddressDependsOnVxAlone : Prop :=
  (∀ w : Word, opField w = 0xF → nnField w = 0x29 → decode w = .ok (.ldFVx (xField w))) ∧
  (∀ (x : Reg) (s : State),
    exec (.ldFVx x) s = .next { s with i := Config.fontAddr (s.getV x), pc := pcPlus s 2 }) ∧
  ∀ (x y : Reg) (s q t u : State), s.getV x = q.getV y → exec (.ldFVx x) s = .next t →
    exec (.ldFVx y) q = .next u → t.i = u.i

/-- R153 with R52, R156: the three decimal digits go to I, I + 1, I + 2, every other byte and all registers but pc stay;
when I + 2 is out of range nothing is stored and MemRange records the lowest bad address (decisions D4, D7, D23). -/
def Obligations.DecimalDigitsAreStored : Prop :=
  (∀ w : Word, opField w = 0xF → nnField w = 0x33 → decode w = .ok (.ldBVx (xField w))) ∧
  ∀ (x : Reg) (s : State),
    (s.i.toNat + 2 < 4096 → ∃ (t : State) (h d u : Nat), exec (.ldBVx x) s = .next t ∧
      t = { s with mem := t.mem, pc := pcPlus s 2 } ∧
      num s x = 100 * h + 10 * d + u ∧ d ≤ 9 ∧ u ≤ 9 ∧
      (t.mem.readByte s.i.toNat).toNat = h ∧ (t.mem.readByte (s.i.toNat + 1)).toNat = d ∧
      (t.mem.readByte (s.i.toNat + 2)).toNat = u ∧
      (∀ a, a < s.i.toNat ∨ s.i.toNat + 2 < a → t.mem.readByte a = s.mem.readByte a) ∧ (s.mem.wf → t.mem.wf)) ∧
    (4096 ≤ s.i.toNat + 2 → exec (.ldBVx x) s = .next (latched s .memRange (max s.i.toNat 4096)))

/-- R154 with R52, R156: V0 to Vx go to I to I + x, every other byte and all registers but pc stay; when I + x is out of
range nothing is stored and MemRange records the lowest bad address (decisions D4, D7, D23, D24). -/
def Obligations.StoreWritesV0ToVx : Prop :=
  (∀ w : Word, opField w = 0xF → nnField w = 0x55 → decode w = .ok (.ldMemVx (xField w))) ∧
  ∀ (x : Reg) (s : State),
    (s.i.toNat + x.val < 4096 → ∃ t : State, exec (.ldMemVx x) s = .next t ∧
      t = { s with mem := t.mem, pc := pcPlus s 2 } ∧
      (∀ k : Reg, k ≤ x → t.mem.readByte (s.i.toNat + k.val) = s.getV k) ∧
      (∀ a, a < s.i.toNat ∨ s.i.toNat + x.val < a → t.mem.readByte a = s.mem.readByte a) ∧ (s.mem.wf → t.mem.wf)) ∧
    (4096 ≤ s.i.toNat + x.val → exec (.ldMemVx x) s = .next (latched s .memRange (max s.i.toNat 4096)))

/-- R155 with R52, R156: V0 to Vx take the bytes at I to I + x, the registers above x, memory and I stay; when I + x is
out of range no register is loaded and MemRange records the lowest bad address (decisions D4, D7, D23, D24). -/
def Obligations.LoadFillsV0ToVx : Prop :=
  (∀ w : Word, opField w = 0xF → nnField w = 0x65 → decode w = .ok (.ldVxMem (xField w))) ∧
  ∀ (x : Reg) (s : State),
    (s.i.toNat + x.val < 4096 → ∃ t : State, exec (.ldVxMem x) s = .next t ∧
      t = { s with v := t.v, pc := pcPlus s 2 } ∧
      ∀ r : Reg, t.getV r = if r ≤ x then s.mem.readByte (s.i.toNat + r.val) else s.getV r) ∧
    (4096 ≤ s.i.toNat + x.val → exec (.ldVxMem x) s = .next (latched s .memRange (max s.i.toNat 4096)))

/-- R154 (d): storing V0 to Vx and then loading from the same I, into registers with any content, gives the stored values
back. -/
def Obligations.StoreThenLoadGivesTheRegistersBack : Prop :=
  ∀ (x : Reg) (s : State), s.i.toNat + x.val < 4096 → ∃ t, exec (.ldMemVx x) s = .next t ∧
    ∀ v : Vector Byte 16, ∃ u, exec (.ldVxMem x) { t with v := v } = .next u ∧
      ∀ r : Reg, u.getV r = if r ≤ x then s.getV r else v[r]

/-- 20_memory.md R61, R53: what Fx55 stores is what a later fetch reads, at every address where two of the stored bytes
stand, odd ones included, high byte first. -/
def Obligations.StoredBytesAreFetchedNext : Prop :=
  ∀ (x : Reg) (s : State), s.i.toNat + x.val < 4096 → ∃ t, exec (.ldMemVx x) s = .next t ∧
    ∀ k l : Reg, l.val = k.val + 1 → l ≤ x → ∃ w : Word,
      ({ t with pc := BitVec.ofNat 16 (s.i.toNat + k.val) } : State).fetch = .ok w ∧ w.toNat = num s k * 256 + num s l

/-! ## Timers -/

/-- 45_timers.md R160: Vx takes DT as it stands, and DT stays. -/
def Obligations.ReadDelayTimerCopiesDT : Prop :=
  (∀ w : Word, opField w = 0xF → nnField w = 0x07 → decode w = .ok (.ldVxDt (xField w))) ∧
  ∀ (x : Reg) (s : State), ∃ t, exec (.ldVxDt x) s = .next t ∧
    t = { s with v := t.v, pc := pcPlus s 2 } ∧ ∀ r : Reg, t.getV r = if r = x then s.dt else s.getV r

/-- R161, R162: DT and ST are set to Vx, and nothing else changes but pc; the speaker output is on exactly while ST is above
0, so after Fx18 exactly when Vx is not 0 (10_state.md R30). -/
def Obligations.SetTimersCopiesVx : Prop :=
  (∀ w : Word, opField w = 0xF → nnField w = 0x15 → decode w = .ok (.ldDtVx (xField w))) ∧
  (∀ w : Word, opField w = 0xF → nnField w = 0x18 → decode w = .ok (.ldStVx (xField w))) ∧
  ∀ (x : Reg) (s : State),
    exec (.ldDtVx x) s = .next { s with dt := s.getV x, pc := pcPlus s 2 } ∧
    ∃ t, exec (.ldStVx x) s = .next t ∧ t = { s with st := s.getV x, pc := pcPlus s 2 } ∧
      (t.speaker = true ↔ 0 < num s x)

/-- 10_state.md R30, R36: no instruction reads ST. What an instruction does is the same whatever ST holds: ST goes through
unchanged, and Fx18 replaces it without looking at it. -/
def Obligations.NoInstructionReadsTheSoundTimer : Prop :=
  (∀ (i : Instr) (s t : State) (b : Byte), (∀ x, i ≠ .ldStVx x) → exec i s = .next t →
    exec i { s with st := b } = .next { t with st := b }) ∧
  ∀ (x : Reg) (s : State) (b : Byte), exec (.ldStVx x) { s with st := b } = exec (.ldStVx x) s

/-- R163; that a timer at 0 stays at 0 is decision D14: a tick, in any state, steps both timers down towards 0 and
changes nothing else of CORE; the speaker output stays on exactly when ST was above 1 (10_state.md R30). The tick comes as a
move of the script (log entry 2). -/
def Obligations.TickCountsBothTimersDown : Prop :=
  ∀ s : State, s.nextMove = .tick → ∃ t, step s = .next t ∧
    t = { s with dt := t.dt, st := t.st, env := t.env } ∧
    t.dt.toNat = s.dt.toNat - 1 ∧ t.st.toNat = s.st.toNat - 1 ∧ (t.speaker = true ↔ 1 < s.st.toNat) ∧
    t.env = { s.env with script := s.env.script.tail }

/-! ## Collaborators -/

/-- 46_io.md R170 (decision D27): one DisplayClear request and pc; nothing else changes. -/
def Obligations.ClearIssuesOneRequest : Prop :=
  (∀ w : Word, decode w = .ok .cls ↔ w = 0x00E0) ∧
  ∀ s : State, exec .cls s = .next
    { s with pc := pcPlus s 2, env := { s.env with requests := .displayClear :: s.env.requests } }

/-- R171, R177 (decision D16): Vx is the entropy source's answer masked with nn, every value within the mask is possible, and
the draw is fresh: the answer it took is gone, and the next free one has another index. The answer is an input (log
entry 1). -/
def Obligations.RandomByteIsMasked : Prop :=
  (∀ w : Word, opField w = 0xC → decode w = .ok (.rndVxNn (xField w) (nnField w))) ∧
  (∀ (x : Reg) (nn : Byte) (s : State), ∃ t, exec (.rndVxNn x nn) s = .next t ∧
    t = { s with v := t.v, pc := pcPlus s 2, env := t.env } ∧
    t.env.requests = .randomByte :: s.env.requests ∧ t.env.draws = s.env.draws + 1 ∧
    (∀ r : Reg, t.getV r = if r = x then s.randomAnswer &&& nn else s.getV r) ∧
    ∀ b rest, s.env.randomBytes = b :: rest → s.randomAnswer = b ∧ t.env.randomBytes = rest) ∧
  ∀ (x : Reg) (nn b : Byte) (s : State), b &&& ~~~nn = 0 →
    ∃ e t, exec (.rndVxNn x nn) { s with env := e } = .next t ∧ t.getV x = b

/-- R172 with R52, R60 (decisions D4, D7, D15, D23): the coordinates and the n bytes at I go out in one request, VF takes
the answer, nothing else changes but pc; an out-of-range sprite raises MemRange with no request; n = 0 reads nothing and
never faults. The answer is an input, either bit (R177; log entry 1). -/
def Obligations.DrawSendsTheSpriteAndTakesTheCollision : Prop :=
  (∀ w : Word, opField w = 0xD → decode w = .ok (.drwVxVyN (xField w) (yField w) (nField w))) ∧
  ∀ (x y : Reg) (n : Nibble) (s : State),
    (n.toNat = 0 ∨ s.i.toNat + n.toNat ≤ 4096 → ∃ (t : State) (bytes : List Byte),
      exec (.drwVxVyN x y n) s = .next t ∧ t = { s with v := t.v, pc := pcPlus s 2, env := t.env } ∧
      bytes.length = n.toNat ∧ (∀ k < n.toNat, bytes[k]? = some (s.mem.readByte (s.i.toNat + k))) ∧
      t.env.requests = .displayDraw (s.getV x) (s.getV y) bytes :: s.env.requests ∧
      (∀ r : Reg, num t r =
        if r = 15 then (if s.collisionAnswer (s.getV x) (s.getV y) bytes then 1 else 0) else num s r) ∧
      ∀ d rest, s.env.collisions = d :: rest →
        s.collisionAnswer (s.getV x) (s.getV y) bytes = d ∧ t.env.collisions = rest) ∧
    (n.toNat ≠ 0 → 4096 < s.i.toNat + n.toNat →
      exec (.drwVxVyN x y n) s = .next (latched s .memRange (max s.i.toNat 4096)))

/-- R175 (decision D12): while no key comes, CORE's state stays; when key k comes, Vx takes it and pc advances. The answer
is an input (log entries 1 and 9). -/
def Obligations.KeyWaitHoldsUntilAKeyComes : Prop :=
  (∀ w : Word, opField w = 0xF → nnField w = 0x0A → decode w = .ok (.ldVxK (xField w))) ∧
  ∀ (x : Reg) (s : State), ∃ t, exec (.ldVxK x) s = .next t ∧
    t.env.requests = .keyWait :: s.env.requests ∧
    (s.keyWaitAnswer = none → s.SameCore t) ∧
    (∀ k, s.keyWaitAnswer = some k → t = { s with v := t.v, pc := pcPlus s 2, env := t.env } ∧
      ∀ r : Reg, num t r = if r = x then k.toNat else num s r) ∧
    ∀ a rest, s.env.keyPresses = a :: rest → s.keyWaitAnswer = a ∧ t.env.keyPresses = rest

/-- R176: an instruction issues at most one request, only the six of 46_io.md issue any, and the scripted answers and
the world's other fields are left alone by the rest. -/
def Obligations.AtMostOneRequestPerCycle : Prop :=
  ∀ (i : Instr) (s t : State), exec i s = .next t →
    (t.env.requests = s.env.requests ∨ ∃ q, t.env.requests = q :: s.env.requests) ∧ (¬ asks i → t.env = s.env)

/-- 10_state.md R20, R34, R35: there is no hidden state. In two states with the same CORE an instruction that asks no
collaborator leaves the same CORE; given the same answers, so does every instruction and every cycle, with the same
requests. So the model's record of past steps (log entry 15) plays no part in what CORE does. -/
def Obligations.NoHiddenStateOutsideTheCollaborators : Prop :=
  (∀ (i : Instr) (s q t : State), ¬ asks i → s.SameCore q → exec i s = .next t →
    ∃ u, exec i q = .next u ∧ t.SameCore u) ∧
  (∀ (i : Instr) (s q t : State), s.SameCore q → s.SameAnswers q → exec i s = .next t →
    ∃ u, exec i q = .next u ∧ t.SameCore u ∧
      ∃ new, t.env.requests = new ++ s.env.requests ∧ u.env.requests = new ++ q.env.requests) ∧
  ∀ s q t : State, s.SameCore q → s.SameAnswers q → cycle s = .next t →
    ∃ u, cycle q = .next u ∧ t.SameCore u ∧
      ∃ new, t.env.requests = new ++ s.env.requests ∧ u.env.requests = new ++ q.env.requests

/-! ## Faults, halting, reset -/

/-- 60_exceptions.md R201 (decision D4): faults are precise. An instruction that faults leaves everything as it was but
the latch: no register, no byte, no request. -/
def Obligations.FaultsArePrecise : Prop :=
  ∀ (i : Instr) (s t : State), s.halted = false → exec i s = .next t → t.halted = true →
    t = latched s t.faultCause t.faultInfo

/-- R200, R214, R220 (decisions D3, D6): which instruction can raise which fault, and when, and the code and value the host
observes (R31, R206); the other 29 raise none, and neither does Dxyn with n = 0. -/
def Obligations.OnlySixInstructionsFault : Prop :=
  ∀ (i : Instr) (s t : State), s.halted = false → exec i s = .next t → t.halted = true →
    (i = .ret ∧ s.sp.toNat = 0 ∧ t.faultCause = .stackUnderflow ∧ t.faultOutputs = (true, 3, s.pc.toNat)) ∨
    (∃ nnn, i = .callNnn nnn ∧ 16 ≤ s.sp.toNat ∧ t.faultCause = .stackOverflow ∧
      t.faultOutputs = (true, 4, s.pc.toNat)) ∨
    (∃ len, 4096 < s.i.toNat + len ∧ t.faultCause = .memRange ∧ t.faultOutputs = (true, 1, max s.i.toNat 4096) ∧
      ((∃ x y n, i = .drwVxVyN x y n ∧ n.toNat ≠ 0 ∧ len = n.toNat) ∨ (∃ x, i = .ldBVx x ∧ len = 3) ∨
       (∃ x, i = .ldMemVx x ∧ len = x.val + 1) ∨ (∃ x, i = .ldVxMem x ∧ len = x.val + 1)))

/-- R204, R205 (decision D2): while halted a cycle request changes nothing, no step but a reset clears the latch, and the
first fault stays recorded and observable (R206). -/
def Obligations.HaltedUntilReset : Prop :=
  ∀ s : State, s.halted = true →
    cycle s = .next s ∧
    ∀ t, step s = .next t → s.nextMove ≠ .reset →
      t.halted = true ∧ t.faultCause = s.faultCause ∧ t.faultInfo = s.faultInfo ∧ t.faultOutputs = s.faultOutputs ∧
      t.v = s.v ∧ t.i = s.i ∧ t.pc = s.pc ∧ t.sp = s.sp ∧ t.stack = s.stack

/-- 70_reset_and_hazards.md R250, R251 (decisions D17, D22): reset, in any state, leaves every register, slot, timer and
byte 0, pc at 0x200, the latch clear, and every output off: the host observes code 0 (R31, R206). The reset comes as a move of the script (log entries 2 and 12). -/
def Obligations.ResetClearsEverything : Prop :=
  ∀ s : State, s.nextMove = .reset → ∃ t, step s = .next t ∧
    (∀ r : Reg, t.getV r = 0) ∧ t.i = 0 ∧ t.pc = 0x200 ∧ t.sp = 0 ∧ (∀ j : Fin 16, t.stack[j] = 0) ∧
    t.dt = 0 ∧ t.st = 0 ∧ (∀ a, t.mem.readByte a = 0) ∧
    t.halted = false ∧ t.faultCause = .none ∧ t.faultInfo = 0 ∧ t.faultOutputs = (false, 0, 0) ∧ t.speaker = false

/-- R256, 00_scope.md R6 (b) (decision D26): before the first cycle the loader's moves place an image byte by byte from
0x200, and change nothing else of CORE. -/
def Obligations.LoaderPlacesTheImage : Prop :=
  ∀ (image : List Byte) (rest : List HostMove) (s : State), imageWellFormed image = true → s.env.started = false →
    s.env.script = loaderMoves 0x200 image ++ rest →
    ∃ t, Host.Core.run Sys2Proof.core image.length s = .next t ∧
      t = { s with mem := t.mem, env := { s.env with script := rest } } ∧
      (∀ k b, image[k]? = some b → t.mem.readByte (0x200 + k) = b) ∧
      ∀ a, a < 0x200 ∨ 0x200 + image.length ≤ a → t.mem.readByte a = s.mem.readByte a

/-- R6 (b), R256; the refusal by name is the MODEL's (log entry 8): a loader move after the first cycle, or above memory,
has no meaning. -/
def Obligations.LoaderOutsideItsWindowIsRefused : Prop :=
  ∀ (s : State) (a : Nat) (b : Byte), s.nextMove = .load a b →
    (s.env.started = true → step s = .refused .loaderWriteAfterStart) ∧
    (s.env.started = false → 4096 ≤ a → step s = .refused (.loaderWriteOutOfRange a))

/-- R262: from any even pc with nothing but zero bytes from there to the end of memory, and a host that only requests
cycles, CORE runs NOPs up to pc = 0x1000, and the next cycle faults with MemRange(0x1000). The latch is decision D2;
that an empty script means cycles is the model's (log entry 2). -/
def Obligations.RunningOffTheProgramFaultsAtTheEnd : Prop :=
  ∀ (k : Nat) (s : State), s.halted = false → s.env.script = [] → s.pc.toNat + 2 * k = 0x1000 → 0 < k →
    (∀ a, s.pc.toNat ≤ a → s.mem.readByte a = 0) →
    Host.Core.run Sys2Proof.core k s =
      .next { s with pc := 0x1000, env := { s.env with started := true } } ∧
    Host.Core.run Sys2Proof.core (k + 1) s =
      .next (latched { s with pc := 0x1000, env := { s.env with started := true } } .memRange 0x1000)

/-- R258, R102 (b) (decision D25): at a jump to itself a cycle changes nothing of CORE. -/
def Obligations.SelfJumpHoldsTheState : Prop :=
  ∀ s : State, s.atSelfJump = true → ∃ t, cycle s = .next t ∧ s.SameCore t

/-! ## Whole-machine rules -/

/-- 10_state.md R24, R36 (decision D24): only Annn, Fx1E and Fx29 change I. -/
def Obligations.OnlyIndexInstructionsChangeI : Prop :=
  ∀ (i : Instr) (s t : State), exec i s = .next t → t.i ≠ s.i →
    (∃ nnn, i = .ldINnn nnn) ∨ (∃ x, i = .addIVx x) ∨ (∃ x, i = .ldFVx x)

/-- R28, R36: only 2nnn and 00EE change SP or a slot, and SP by one. -/
def Obligations.OnlyCallAndReturnChangeTheStack : Prop :=
  ∀ (i : Instr) (s t : State), exec i s = .next t → (t.sp ≠ s.sp ∨ t.stack ≠ s.stack) →
    (∃ nnn, i = .callNnn nnn ∧ t.sp.toNat = s.sp.toNat + 1) ∨
    (i = .ret ∧ t.sp.toNat + 1 = s.sp.toNat ∧ t.stack = s.stack)

/-- R30, 45_timers.md R164: among the instructions only Fx15 changes DT and only Fx18 changes ST. -/
def Obligations.OnlyTimerWritesChangeTheTimers : Prop :=
  ∀ (i : Instr) (s t : State), exec i s = .next t →
    (t.dt ≠ s.dt → ∃ x, i = .ldDtVx x ∧ t.dt = s.getV x) ∧
    (t.st ≠ s.st → ∃ x, i = .ldStVx x ∧ t.st = s.getV x)

/-- 20_memory.md R55: during a run only Fx33 and Fx55 change memory, and they change at most the bytes at I to I + 15. -/
def Obligations.OnlyStoresChangeMemory : Prop :=
  ∀ (i : Instr) (s t : State), exec i s = .next t →
    (t.mem ≠ s.mem → (∃ x, i = .ldBVx x) ∨ (∃ x, i = .ldMemVx x)) ∧
    ∀ a, a < s.i.toNat ∨ s.i.toNat + 16 ≤ a → t.mem.readByte a = s.mem.readByte a

/-- R21, R22 (decisions D8, D24): a register changes only if the instruction names it as a destination or it is VF and
the instruction writes the flag; and a flag-writing instruction that does not fault leaves VF 0 or 1. -/
def Obligations.RegistersChangeOnlyAsNamed : Prop :=
  ∀ (i : Instr) (s t : State) (r : Reg), exec i s = .next t →
    (t.getV r ≠ s.getV r → hasDest i r ∨ (writesFlag i ∧ r = 15)) ∧
    (writesFlag i → s.halted = false → t.halted = false → num t 15 ≤ 1)

/-- R26 (the hold of Fx0A is decision D12): where pc goes. Unless the instruction sets pc itself, faults, or holds, pc
moves on by 2, or by 4 for a skip. -/
def Obligations.PcMovesAsTheRuleSays : Prop :=
  ∀ (i : Instr) (s t : State), exec i s = .next t → ¬ setsPc i →
    t.pc = pcPlus s 2 ∨ (isSkip i ∧ t.pc = pcPlus s 4) ∨
    (t.pc = s.pc ∧ (t.halted = true ∨ ∃ x, i = .ldVxK x ∧ s.keyWaitAnswer = none))

/-! ## The invariant -/

/-- R20, R250: the invariant holds right after reset. -/
def Obligations.ResetMeetsTheInvariant : Prop := State.reset.Inv

/-- R27, R28, R31, R50, R52: from every state that meets it, every step that has a next state keeps the invariant: the
memory's canonical form, SP at most 16, pc below 0x10FF, slots at most 0xFFE, `fault_info` below 2^17, and a cause
latched exactly while halted. The steps are cycles, ticks, resets and loader writes. -/
def Obligations.StepKeepsTheInvariant : Prop :=
  ∀ s t : State, s.Inv → step s = .next t → t.Inv

/-- R204, R220: in every state that meets the invariant, every step has a next state, unless the loader breaks its
contract: no instruction is refused and none stops the model. That a fault is a next state is the MODEL's form (log
entry 5, from R201), and so is the unchanged next state of a cycle request while halted, where R204 says that the request
"does nothing" and R33 has no step of CORE (log entry 6). -/
def Obligations.StepAlwaysGoesOn : Prop :=
  ∀ s : State, s.Inv → (∀ a b, s.nextMove = .load a b → s.env.started = false ∧ a < 4096) → ∃ t, step s = .next t
end

