-- ==== Sys2Proof/Laws/State.lean ====
section
/-! SUPPORT. One lemma per field and update of State, true by rfl, so that no proof unfolds a record update. An update
of the world around CORE has a lemma for every field it leaves alone. -/

namespace Sys2Proof.Machine

variable (s : State)

@[simp] theorem State.setV_v (x : Reg) (b : Byte) : (s.setV x b).v = s.v.set x b := rfl
@[simp] theorem State.setV_i (x : Reg) (b : Byte) : (s.setV x b).i = s.i := rfl
@[simp] theorem State.setV_pc (x : Reg) (b : Byte) : (s.setV x b).pc = s.pc := rfl
@[simp] theorem State.setV_sp (x : Reg) (b : Byte) : (s.setV x b).sp = s.sp := rfl
@[simp] theorem State.setV_stack (x : Reg) (b : Byte) : (s.setV x b).stack = s.stack := rfl
@[simp] theorem State.setV_dt (x : Reg) (b : Byte) : (s.setV x b).dt = s.dt := rfl
@[simp] theorem State.setV_st (x : Reg) (b : Byte) : (s.setV x b).st = s.st := rfl
@[simp] theorem State.setV_mem (x : Reg) (b : Byte) : (s.setV x b).mem = s.mem := rfl
@[simp] theorem State.setV_halted (x : Reg) (b : Byte) : (s.setV x b).halted = s.halted := rfl
@[simp] theorem State.setV_faultCause (x : Reg) (b : Byte) : (s.setV x b).faultCause = s.faultCause := rfl
@[simp] theorem State.setV_faultInfo (x : Reg) (b : Byte) : (s.setV x b).faultInfo = s.faultInfo := rfl
@[simp] theorem State.setV_env (x : Reg) (b : Byte) : (s.setV x b).env = s.env := rfl

@[simp] theorem State.setI_v (a : Word) : (s.setI a).v = s.v := rfl
@[simp] theorem State.setI_i (a : Word) : (s.setI a).i = a := rfl
@[simp] theorem State.setI_pc (a : Word) : (s.setI a).pc = s.pc := rfl
@[simp] theorem State.setI_sp (a : Word) : (s.setI a).sp = s.sp := rfl
@[simp] theorem State.setI_stack (a : Word) : (s.setI a).stack = s.stack := rfl
@[simp] theorem State.setI_dt (a : Word) : (s.setI a).dt = s.dt := rfl
@[simp] theorem State.setI_st (a : Word) : (s.setI a).st = s.st := rfl
@[simp] theorem State.setI_mem (a : Word) : (s.setI a).mem = s.mem := rfl
@[simp] theorem State.setI_halted (a : Word) : (s.setI a).halted = s.halted := rfl
@[simp] theorem State.setI_faultCause (a : Word) : (s.setI a).faultCause = s.faultCause := rfl
@[simp] theorem State.setI_faultInfo (a : Word) : (s.setI a).faultInfo = s.faultInfo := rfl
@[simp] theorem State.setI_env (a : Word) : (s.setI a).env = s.env := rfl

@[simp] theorem State.setPc_v (a : Word) : (s.setPc a).v = s.v := rfl
@[simp] theorem State.setPc_i (a : Word) : (s.setPc a).i = s.i := rfl
@[simp] theorem State.setPc_pc (a : Word) : (s.setPc a).pc = a := rfl
@[simp] theorem State.setPc_sp (a : Word) : (s.setPc a).sp = s.sp := rfl
@[simp] theorem State.setPc_stack (a : Word) : (s.setPc a).stack = s.stack := rfl
@[simp] theorem State.setPc_dt (a : Word) : (s.setPc a).dt = s.dt := rfl
@[simp] theorem State.setPc_st (a : Word) : (s.setPc a).st = s.st := rfl
@[simp] theorem State.setPc_mem (a : Word) : (s.setPc a).mem = s.mem := rfl
@[simp] theorem State.setPc_halted (a : Word) : (s.setPc a).halted = s.halted := rfl
@[simp] theorem State.setPc_faultCause (a : Word) : (s.setPc a).faultCause = s.faultCause := rfl
@[simp] theorem State.setPc_faultInfo (a : Word) : (s.setPc a).faultInfo = s.faultInfo := rfl
@[simp] theorem State.setPc_env (a : Word) : (s.setPc a).env = s.env := rfl

@[simp] theorem State.setDt_v (b : Byte) : (s.setDt b).v = s.v := rfl
@[simp] theorem State.setDt_i (b : Byte) : (s.setDt b).i = s.i := rfl
@[simp] theorem State.setDt_pc (b : Byte) : (s.setDt b).pc = s.pc := rfl
@[simp] theorem State.setDt_sp (b : Byte) : (s.setDt b).sp = s.sp := rfl
@[simp] theorem State.setDt_stack (b : Byte) : (s.setDt b).stack = s.stack := rfl
@[simp] theorem State.setDt_dt (b : Byte) : (s.setDt b).dt = b := rfl
@[simp] theorem State.setDt_st (b : Byte) : (s.setDt b).st = s.st := rfl
@[simp] theorem State.setDt_mem (b : Byte) : (s.setDt b).mem = s.mem := rfl
@[simp] theorem State.setDt_halted (b : Byte) : (s.setDt b).halted = s.halted := rfl
@[simp] theorem State.setDt_faultCause (b : Byte) : (s.setDt b).faultCause = s.faultCause := rfl
@[simp] theorem State.setDt_faultInfo (b : Byte) : (s.setDt b).faultInfo = s.faultInfo := rfl
@[simp] theorem State.setDt_env (b : Byte) : (s.setDt b).env = s.env := rfl

@[simp] theorem State.setSt_v (b : Byte) : (s.setSt b).v = s.v := rfl
@[simp] theorem State.setSt_i (b : Byte) : (s.setSt b).i = s.i := rfl
@[simp] theorem State.setSt_pc (b : Byte) : (s.setSt b).pc = s.pc := rfl
@[simp] theorem State.setSt_sp (b : Byte) : (s.setSt b).sp = s.sp := rfl
@[simp] theorem State.setSt_stack (b : Byte) : (s.setSt b).stack = s.stack := rfl
@[simp] theorem State.setSt_dt (b : Byte) : (s.setSt b).dt = s.dt := rfl
@[simp] theorem State.setSt_st (b : Byte) : (s.setSt b).st = b := rfl
@[simp] theorem State.setSt_mem (b : Byte) : (s.setSt b).mem = s.mem := rfl
@[simp] theorem State.setSt_halted (b : Byte) : (s.setSt b).halted = s.halted := rfl
@[simp] theorem State.setSt_faultCause (b : Byte) : (s.setSt b).faultCause = s.faultCause := rfl
@[simp] theorem State.setSt_faultInfo (b : Byte) : (s.setSt b).faultInfo = s.faultInfo := rfl
@[simp] theorem State.setSt_env (b : Byte) : (s.setSt b).env = s.env := rfl

@[simp] theorem State.setMem_v (m : Memory) : (s.setMem m).v = s.v := rfl
@[simp] theorem State.setMem_i (m : Memory) : (s.setMem m).i = s.i := rfl
@[simp] theorem State.setMem_pc (m : Memory) : (s.setMem m).pc = s.pc := rfl
@[simp] theorem State.setMem_sp (m : Memory) : (s.setMem m).sp = s.sp := rfl
@[simp] theorem State.setMem_stack (m : Memory) : (s.setMem m).stack = s.stack := rfl
@[simp] theorem State.setMem_dt (m : Memory) : (s.setMem m).dt = s.dt := rfl
@[simp] theorem State.setMem_st (m : Memory) : (s.setMem m).st = s.st := rfl
@[simp] theorem State.setMem_mem (m : Memory) : (s.setMem m).mem = m := rfl
@[simp] theorem State.setMem_halted (m : Memory) : (s.setMem m).halted = s.halted := rfl
@[simp] theorem State.setMem_faultCause (m : Memory) : (s.setMem m).faultCause = s.faultCause := rfl
@[simp] theorem State.setMem_faultInfo (m : Memory) : (s.setMem m).faultInfo = s.faultInfo := rfl
@[simp] theorem State.setMem_env (m : Memory) : (s.setMem m).env = s.env := rfl

@[simp] theorem State.advance_v : (s.advance).v = s.v := rfl
@[simp] theorem State.advance_i : (s.advance).i = s.i := rfl
@[simp] theorem State.advance_pc : (s.advance).pc = s.pc + 2 := rfl
@[simp] theorem State.advance_sp : (s.advance).sp = s.sp := rfl
@[simp] theorem State.advance_stack : (s.advance).stack = s.stack := rfl
@[simp] theorem State.advance_dt : (s.advance).dt = s.dt := rfl
@[simp] theorem State.advance_st : (s.advance).st = s.st := rfl
@[simp] theorem State.advance_mem : (s.advance).mem = s.mem := rfl
@[simp] theorem State.advance_halted : (s.advance).halted = s.halted := rfl
@[simp] theorem State.advance_faultCause : (s.advance).faultCause = s.faultCause := rfl
@[simp] theorem State.advance_faultInfo : (s.advance).faultInfo = s.faultInfo := rfl
@[simp] theorem State.advance_env : (s.advance).env = s.env := rfl

@[simp] theorem State.writeResult_v (x : Reg) (r : Byte) : (s.writeResult x r).v = s.v.set x r := rfl
@[simp] theorem State.writeResult_i (x : Reg) (r : Byte) : (s.writeResult x r).i = s.i := rfl
@[simp] theorem State.writeResult_pc (x : Reg) (r : Byte) : (s.writeResult x r).pc = s.pc + 2 := rfl
@[simp] theorem State.writeResult_sp (x : Reg) (r : Byte) : (s.writeResult x r).sp = s.sp := rfl
@[simp] theorem State.writeResult_stack (x : Reg) (r : Byte) : (s.writeResult x r).stack = s.stack := rfl
@[simp] theorem State.writeResult_dt (x : Reg) (r : Byte) : (s.writeResult x r).dt = s.dt := rfl
@[simp] theorem State.writeResult_st (x : Reg) (r : Byte) : (s.writeResult x r).st = s.st := rfl
@[simp] theorem State.writeResult_mem (x : Reg) (r : Byte) : (s.writeResult x r).mem = s.mem := rfl
@[simp] theorem State.writeResult_halted (x : Reg) (r : Byte) : (s.writeResult x r).halted = s.halted := rfl
@[simp] theorem State.writeResult_faultCause (x : Reg) (r : Byte) : (s.writeResult x r).faultCause = s.faultCause := rfl
@[simp] theorem State.writeResult_faultInfo (x : Reg) (r : Byte) : (s.writeResult x r).faultInfo = s.faultInfo := rfl
@[simp] theorem State.writeResult_env (x : Reg) (r : Byte) : (s.writeResult x r).env = s.env := rfl

@[simp] theorem State.writeResultFlag_v (x : Reg) (r : Byte) (f : Bool) : (s.writeResultFlag x r f).v = (s.v.set x r).set vf (flagByte f) := rfl
@[simp] theorem State.writeResultFlag_i (x : Reg) (r : Byte) (f : Bool) : (s.writeResultFlag x r f).i = s.i := rfl
@[simp] theorem State.writeResultFlag_pc (x : Reg) (r : Byte) (f : Bool) : (s.writeResultFlag x r f).pc = s.pc + 2 := rfl
@[simp] theorem State.writeResultFlag_sp (x : Reg) (r : Byte) (f : Bool) : (s.writeResultFlag x r f).sp = s.sp := rfl
@[simp] theorem State.writeResultFlag_stack (x : Reg) (r : Byte) (f : Bool) : (s.writeResultFlag x r f).stack = s.stack := rfl
@[simp] theorem State.writeResultFlag_dt (x : Reg) (r : Byte) (f : Bool) : (s.writeResultFlag x r f).dt = s.dt := rfl
@[simp] theorem State.writeResultFlag_st (x : Reg) (r : Byte) (f : Bool) : (s.writeResultFlag x r f).st = s.st := rfl
@[simp] theorem State.writeResultFlag_mem (x : Reg) (r : Byte) (f : Bool) : (s.writeResultFlag x r f).mem = s.mem := rfl
@[simp] theorem State.writeResultFlag_halted (x : Reg) (r : Byte) (f : Bool) : (s.writeResultFlag x r f).halted = s.halted := rfl
@[simp] theorem State.writeResultFlag_faultCause (x : Reg) (r : Byte) (f : Bool) : (s.writeResultFlag x r f).faultCause = s.faultCause := rfl
@[simp] theorem State.writeResultFlag_faultInfo (x : Reg) (r : Byte) (f : Bool) : (s.writeResultFlag x r f).faultInfo = s.faultInfo := rfl
@[simp] theorem State.writeResultFlag_env (x : Reg) (r : Byte) (f : Bool) : (s.writeResultFlag x r f).env = s.env := rfl

@[simp] theorem State.setVBlock_v (bytes : List Byte) : (s.setVBlock bytes).v = Vector.ofFn fun k : Reg => (bytes[k.val]?).getD s.v[k] := rfl
@[simp] theorem State.setVBlock_i (bytes : List Byte) : (s.setVBlock bytes).i = s.i := rfl
@[simp] theorem State.setVBlock_pc (bytes : List Byte) : (s.setVBlock bytes).pc = s.pc := rfl
@[simp] theorem State.setVBlock_sp (bytes : List Byte) : (s.setVBlock bytes).sp = s.sp := rfl
@[simp] theorem State.setVBlock_stack (bytes : List Byte) : (s.setVBlock bytes).stack = s.stack := rfl
@[simp] theorem State.setVBlock_dt (bytes : List Byte) : (s.setVBlock bytes).dt = s.dt := rfl
@[simp] theorem State.setVBlock_st (bytes : List Byte) : (s.setVBlock bytes).st = s.st := rfl
@[simp] theorem State.setVBlock_mem (bytes : List Byte) : (s.setVBlock bytes).mem = s.mem := rfl
@[simp] theorem State.setVBlock_halted (bytes : List Byte) : (s.setVBlock bytes).halted = s.halted := rfl
@[simp] theorem State.setVBlock_faultCause (bytes : List Byte) : (s.setVBlock bytes).faultCause = s.faultCause := rfl
@[simp] theorem State.setVBlock_faultInfo (bytes : List Byte) : (s.setVBlock bytes).faultInfo = s.faultInfo := rfl
@[simp] theorem State.setVBlock_env (bytes : List Byte) : (s.setVBlock bytes).env = s.env := rfl

@[simp] theorem State.raise_v (t : Trap) : (s.raise t).v = s.v := rfl
@[simp] theorem State.raise_i (t : Trap) : (s.raise t).i = s.i := rfl
@[simp] theorem State.raise_pc (t : Trap) : (s.raise t).pc = s.pc := rfl
@[simp] theorem State.raise_sp (t : Trap) : (s.raise t).sp = s.sp := rfl
@[simp] theorem State.raise_stack (t : Trap) : (s.raise t).stack = s.stack := rfl
@[simp] theorem State.raise_dt (t : Trap) : (s.raise t).dt = s.dt := rfl
@[simp] theorem State.raise_st (t : Trap) : (s.raise t).st = s.st := rfl
@[simp] theorem State.raise_mem (t : Trap) : (s.raise t).mem = s.mem := rfl
@[simp] theorem State.raise_halted (t : Trap) : (s.raise t).halted = true := rfl
@[simp] theorem State.raise_faultCause (t : Trap) : (s.raise t).faultCause = t.cause := rfl
@[simp] theorem State.raise_faultInfo (t : Trap) : (s.raise t).faultInfo = t.info := rfl
@[simp] theorem State.raise_env (t : Trap) : (s.raise t).env = s.env := rfl

@[simp] theorem State.askClear_v : (s.askClear).v = s.v := rfl
@[simp] theorem State.askClear_i : (s.askClear).i = s.i := rfl
@[simp] theorem State.askClear_pc : (s.askClear).pc = s.pc := rfl
@[simp] theorem State.askClear_sp : (s.askClear).sp = s.sp := rfl
@[simp] theorem State.askClear_stack : (s.askClear).stack = s.stack := rfl
@[simp] theorem State.askClear_dt : (s.askClear).dt = s.dt := rfl
@[simp] theorem State.askClear_st : (s.askClear).st = s.st := rfl
@[simp] theorem State.askClear_mem : (s.askClear).mem = s.mem := rfl
@[simp] theorem State.askClear_halted : (s.askClear).halted = s.halted := rfl
@[simp] theorem State.askClear_faultCause : (s.askClear).faultCause = s.faultCause := rfl
@[simp] theorem State.askClear_faultInfo : (s.askClear).faultInfo = s.faultInfo := rfl

@[simp] theorem State.askRandom_v : (s.askRandom).v = s.v := rfl
@[simp] theorem State.askRandom_i : (s.askRandom).i = s.i := rfl
@[simp] theorem State.askRandom_pc : (s.askRandom).pc = s.pc := rfl
@[simp] theorem State.askRandom_sp : (s.askRandom).sp = s.sp := rfl
@[simp] theorem State.askRandom_stack : (s.askRandom).stack = s.stack := rfl
@[simp] theorem State.askRandom_dt : (s.askRandom).dt = s.dt := rfl
@[simp] theorem State.askRandom_st : (s.askRandom).st = s.st := rfl
@[simp] theorem State.askRandom_mem : (s.askRandom).mem = s.mem := rfl
@[simp] theorem State.askRandom_halted : (s.askRandom).halted = s.halted := rfl
@[simp] theorem State.askRandom_faultCause : (s.askRandom).faultCause = s.faultCause := rfl
@[simp] theorem State.askRandom_faultInfo : (s.askRandom).faultInfo = s.faultInfo := rfl

@[simp] theorem State.askDraw_v (cx cy : Byte) (bytes : List Byte) : (s.askDraw cx cy bytes).v = s.v := rfl
@[simp] theorem State.askDraw_i (cx cy : Byte) (bytes : List Byte) : (s.askDraw cx cy bytes).i = s.i := rfl
@[simp] theorem State.askDraw_pc (cx cy : Byte) (bytes : List Byte) : (s.askDraw cx cy bytes).pc = s.pc := rfl
@[simp] theorem State.askDraw_sp (cx cy : Byte) (bytes : List Byte) : (s.askDraw cx cy bytes).sp = s.sp := rfl
@[simp] theorem State.askDraw_stack (cx cy : Byte) (bytes : List Byte) : (s.askDraw cx cy bytes).stack = s.stack := rfl
@[simp] theorem State.askDraw_dt (cx cy : Byte) (bytes : List Byte) : (s.askDraw cx cy bytes).dt = s.dt := rfl
@[simp] theorem State.askDraw_st (cx cy : Byte) (bytes : List Byte) : (s.askDraw cx cy bytes).st = s.st := rfl
@[simp] theorem State.askDraw_mem (cx cy : Byte) (bytes : List Byte) : (s.askDraw cx cy bytes).mem = s.mem := rfl
@[simp] theorem State.askDraw_halted (cx cy : Byte) (bytes : List Byte) : (s.askDraw cx cy bytes).halted = s.halted := rfl
@[simp] theorem State.askDraw_faultCause (cx cy : Byte) (bytes : List Byte) : (s.askDraw cx cy bytes).faultCause = s.faultCause := rfl
@[simp] theorem State.askDraw_faultInfo (cx cy : Byte) (bytes : List Byte) : (s.askDraw cx cy bytes).faultInfo = s.faultInfo := rfl

@[simp] theorem State.askKeyDown_v (k : Byte) : (s.askKeyDown k).v = s.v := rfl
@[simp] theorem State.askKeyDown_i (k : Byte) : (s.askKeyDown k).i = s.i := rfl
@[simp] theorem State.askKeyDown_pc (k : Byte) : (s.askKeyDown k).pc = s.pc := rfl
@[simp] theorem State.askKeyDown_sp (k : Byte) : (s.askKeyDown k).sp = s.sp := rfl
@[simp] theorem State.askKeyDown_stack (k : Byte) : (s.askKeyDown k).stack = s.stack := rfl
@[simp] theorem State.askKeyDown_dt (k : Byte) : (s.askKeyDown k).dt = s.dt := rfl
@[simp] theorem State.askKeyDown_st (k : Byte) : (s.askKeyDown k).st = s.st := rfl
@[simp] theorem State.askKeyDown_mem (k : Byte) : (s.askKeyDown k).mem = s.mem := rfl
@[simp] theorem State.askKeyDown_halted (k : Byte) : (s.askKeyDown k).halted = s.halted := rfl
@[simp] theorem State.askKeyDown_faultCause (k : Byte) : (s.askKeyDown k).faultCause = s.faultCause := rfl
@[simp] theorem State.askKeyDown_faultInfo (k : Byte) : (s.askKeyDown k).faultInfo = s.faultInfo := rfl

@[simp] theorem State.askKeyWait_v : (s.askKeyWait).v = s.v := rfl
@[simp] theorem State.askKeyWait_i : (s.askKeyWait).i = s.i := rfl
@[simp] theorem State.askKeyWait_pc : (s.askKeyWait).pc = s.pc := rfl
@[simp] theorem State.askKeyWait_sp : (s.askKeyWait).sp = s.sp := rfl
@[simp] theorem State.askKeyWait_stack : (s.askKeyWait).stack = s.stack := rfl
@[simp] theorem State.askKeyWait_dt : (s.askKeyWait).dt = s.dt := rfl
@[simp] theorem State.askKeyWait_st : (s.askKeyWait).st = s.st := rfl
@[simp] theorem State.askKeyWait_mem : (s.askKeyWait).mem = s.mem := rfl
@[simp] theorem State.askKeyWait_halted : (s.askKeyWait).halted = s.halted := rfl
@[simp] theorem State.askKeyWait_faultCause : (s.askKeyWait).faultCause = s.faultCause := rfl
@[simp] theorem State.askKeyWait_faultInfo : (s.askKeyWait).faultInfo = s.faultInfo := rfl

@[simp] theorem State.timerTick_v : (s.timerTick).v = s.v := rfl
@[simp] theorem State.timerTick_i : (s.timerTick).i = s.i := rfl
@[simp] theorem State.timerTick_pc : (s.timerTick).pc = s.pc := rfl
@[simp] theorem State.timerTick_sp : (s.timerTick).sp = s.sp := rfl
@[simp] theorem State.timerTick_stack : (s.timerTick).stack = s.stack := rfl
@[simp] theorem State.timerTick_dt : (s.timerTick).dt = tickTimer s.dt := rfl
@[simp] theorem State.timerTick_st : (s.timerTick).st = tickTimer s.st := rfl
@[simp] theorem State.timerTick_mem : (s.timerTick).mem = s.mem := rfl
@[simp] theorem State.timerTick_halted : (s.timerTick).halted = s.halted := rfl
@[simp] theorem State.timerTick_faultCause : (s.timerTick).faultCause = s.faultCause := rfl
@[simp] theorem State.timerTick_faultInfo : (s.timerTick).faultInfo = s.faultInfo := rfl
@[simp] theorem State.timerTick_env : (s.timerTick).env = s.env := rfl

@[simp] theorem State.markStarted_v : (s.markStarted).v = s.v := rfl
@[simp] theorem State.markStarted_i : (s.markStarted).i = s.i := rfl
@[simp] theorem State.markStarted_pc : (s.markStarted).pc = s.pc := rfl
@[simp] theorem State.markStarted_sp : (s.markStarted).sp = s.sp := rfl
@[simp] theorem State.markStarted_stack : (s.markStarted).stack = s.stack := rfl
@[simp] theorem State.markStarted_dt : (s.markStarted).dt = s.dt := rfl
@[simp] theorem State.markStarted_st : (s.markStarted).st = s.st := rfl
@[simp] theorem State.markStarted_mem : (s.markStarted).mem = s.mem := rfl
@[simp] theorem State.markStarted_halted : (s.markStarted).halted = s.halted := rfl
@[simp] theorem State.markStarted_faultCause : (s.markStarted).faultCause = s.faultCause := rfl
@[simp] theorem State.markStarted_faultInfo : (s.markStarted).faultInfo = s.faultInfo := rfl

@[simp] theorem State.popScript_v : (s.popScript).v = s.v := rfl
@[simp] theorem State.popScript_i : (s.popScript).i = s.i := rfl
@[simp] theorem State.popScript_pc : (s.popScript).pc = s.pc := rfl
@[simp] theorem State.popScript_sp : (s.popScript).sp = s.sp := rfl
@[simp] theorem State.popScript_stack : (s.popScript).stack = s.stack := rfl
@[simp] theorem State.popScript_dt : (s.popScript).dt = s.dt := rfl
@[simp] theorem State.popScript_st : (s.popScript).st = s.st := rfl
@[simp] theorem State.popScript_mem : (s.popScript).mem = s.mem := rfl
@[simp] theorem State.popScript_halted : (s.popScript).halted = s.halted := rfl
@[simp] theorem State.popScript_faultCause : (s.popScript).faultCause = s.faultCause := rfl
@[simp] theorem State.popScript_faultInfo : (s.popScript).faultInfo = s.faultInfo := rfl

@[simp] theorem State.skipIf_v (c : Bool) : (s.skipIf c).v = s.v := by cases c <;> simp [State.skipIf, BitVec.add_assoc]
@[simp] theorem State.skipIf_i (c : Bool) : (s.skipIf c).i = s.i := by cases c <;> simp [State.skipIf, BitVec.add_assoc]
@[simp] theorem State.skipIf_pc (c : Bool) : (s.skipIf c).pc = s.pc + (if c then 4 else 2) := by cases c <;> simp [State.skipIf, BitVec.add_assoc]
@[simp] theorem State.skipIf_sp (c : Bool) : (s.skipIf c).sp = s.sp := by cases c <;> simp [State.skipIf, BitVec.add_assoc]
@[simp] theorem State.skipIf_stack (c : Bool) : (s.skipIf c).stack = s.stack := by cases c <;> simp [State.skipIf, BitVec.add_assoc]
@[simp] theorem State.skipIf_dt (c : Bool) : (s.skipIf c).dt = s.dt := by cases c <;> simp [State.skipIf, BitVec.add_assoc]
@[simp] theorem State.skipIf_st (c : Bool) : (s.skipIf c).st = s.st := by cases c <;> simp [State.skipIf, BitVec.add_assoc]
@[simp] theorem State.skipIf_mem (c : Bool) : (s.skipIf c).mem = s.mem := by cases c <;> simp [State.skipIf, BitVec.add_assoc]
@[simp] theorem State.skipIf_halted (c : Bool) : (s.skipIf c).halted = s.halted := by cases c <;> simp [State.skipIf, BitVec.add_assoc]
@[simp] theorem State.skipIf_faultCause (c : Bool) : (s.skipIf c).faultCause = s.faultCause := by cases c <;> simp [State.skipIf, BitVec.add_assoc]
@[simp] theorem State.skipIf_faultInfo (c : Bool) : (s.skipIf c).faultInfo = s.faultInfo := by cases c <;> simp [State.skipIf, BitVec.add_assoc]
@[simp] theorem State.skipIf_env (c : Bool) : (s.skipIf c).env = s.env := by cases c <;> simp [State.skipIf, BitVec.add_assoc]

@[simp] theorem State.markStarted_started : s.markStarted.env.started = true := rfl

@[simp] theorem State.popScript_script : s.popScript.env.script = s.env.script.tail := rfl

/-- An update of the world around CORE changes nothing of CORE. -/
theorem State.askRandom_sameCore : s.SameCore s.askRandom := rfl

theorem State.askClear_sameCore : s.SameCore s.askClear := rfl

theorem State.askDraw_sameCore (cx cy : Byte) (bytes : List Byte) : s.SameCore (s.askDraw cx cy bytes) := rfl

theorem State.askKeyDown_sameCore (k : Byte) : s.SameCore (s.askKeyDown k) := rfl

theorem State.askKeyWait_sameCore : s.SameCore s.askKeyWait := rfl

theorem State.markStarted_sameCore : s.SameCore s.markStarted := rfl

theorem State.popScript_sameCore : s.SameCore s.popScript := rfl

/-- Where a skip goes depends on CORE and the condition alone. -/
theorem State.skipIf_sameCore (t : State) (c : Bool) (h : s.SameCore t) : (s.skipIf c).SameCore (t.skipIf c) := by
  obtain ⟨_, _⟩ := s
  obtain ⟨_, _⟩ := t
  cases h
  cases c <;> rfl

theorem State.markStarted_sameAnswers : s.SameAnswers s.markStarted :=
  ⟨rfl, rfl, fun _ => rfl, fun _ _ _ => rfl⟩

theorem State.popScript_sameAnswers : s.SameAnswers s.popScript :=
  ⟨rfl, rfl, fun _ => rfl, fun _ _ _ => rfl⟩

/-- What the host observes once a fault is raised (R206). -/
@[simp] theorem State.raise_faultOutputs (t : Trap) : (s.raise t).faultOutputs = (true, t.cause.code, t.info) := rfl

@[simp] theorem State.reset_faultOutputs : State.reset.faultOutputs = (false, 0, 0) := rfl

/-- The five codes are distinct (R31). -/
theorem FaultCause.code_injective (c d : FaultCause) (h : c.code = d.code) : c = d := by
  cases c <;> cases d <;> first | rfl | cases h

theorem State.speaker_iff : s.speaker = true ↔ 0 < s.st.toNat := by
  simp [State.speaker]

end Sys2Proof.Machine
end

