-- ==== Sys2Proof/Laws/Decode.lean ====
section
/-! SUPPORT. The fields of a packed word, and the word of its two bytes (30_encoding.md R71, R72; 20_memory.md R53). -/

namespace Sys2Proof

@[simp] theorem regOf_regField (x : Reg) : regOf (regField x) = x := by
  apply Fin.ext
  simp [regOf, regField]

@[simp] theorem regField_regOf (b : Nibble) : regField (regOf b) = b := by
  simp [regOf, regField]

theorem regField_toNat (x : Reg) : (regField x).toNat = x.val := by
  simp [regField]

section Fields

variable (op n : Nibble) (x y : Reg) (nn : Byte) (nnn : Imm12)

/-- Formats NNN and XNN and XYN as numbers: the fields side by side. -/
theorem packNnn_toNat : (packNnn op nnn).toNat = op.toNat * 4096 + nnn.toNat := by
  simp only [packNnn, BitVec.toNat_append]
  rw [← Nat.shiftLeft_add_eq_or_of_lt nnn.isLt, Nat.shiftLeft_eq]

theorem packXnn_toNat : (packXnn op x nn).toNat = op.toNat * 4096 + x.val * 256 + nn.toNat := by
  simp only [packXnn, BitVec.toNat_append, regField_toNat]
  rw [← Nat.shiftLeft_add_eq_or_of_lt nn.isLt, ← Nat.shiftLeft_add_eq_or_of_lt x.isLt, Nat.shiftLeft_eq,
    Nat.shiftLeft_eq]
  omega

theorem packXyn_toNat :
    (packXyn op x y n).toNat = op.toNat * 4096 + x.val * 256 + y.val * 16 + n.toNat := by
  simp only [packXyn, BitVec.toNat_append, regField_toNat]
  rw [← Nat.shiftLeft_add_eq_or_of_lt n.isLt, ← Nat.shiftLeft_add_eq_or_of_lt y.isLt,
    ← Nat.shiftLeft_add_eq_or_of_lt x.isLt, Nat.shiftLeft_eq, Nat.shiftLeft_eq, Nat.shiftLeft_eq]
  omega

end Fields

section FieldNumbers

variable (w : Word)

theorem opField_toNat : (opField w).toNat = w.toNat / 4096 := by
  have := w.isLt
  simp only [opField, BitVec.extractLsb'_toNat, Nat.shiftRight_eq_div_pow]
  omega

theorem xField_val : (xField w).val = w.toNat / 256 % 16 := by
  simp [xField, regOf, BitVec.extractLsb'_toNat, Nat.shiftRight_eq_div_pow]

theorem yField_val : (yField w).val = w.toNat / 16 % 16 := by
  simp [yField, regOf, BitVec.extractLsb'_toNat, Nat.shiftRight_eq_div_pow]

theorem nField_toNat : (nField w).toNat = w.toNat % 16 := by
  simp [nField, BitVec.extractLsb'_toNat]

theorem nnField_toNat : (nnField w).toNat = w.toNat % 256 := by
  simp [nnField, BitVec.extractLsb'_toNat]

theorem nnnField_toNat : (nnnField w).toNat = w.toNat % 4096 := by
  simp [nnnField, BitVec.extractLsb'_toNat]

/-- A word is its high and low byte. -/
@[simp] theorem wordOfBytes_high_low : wordOfBytes (highByte w) (lowByte w) = w := by
  have := w.isLt
  apply BitVec.eq_of_toNat_eq
  simp only [wordOfBytes, highByte, lowByte, BitVec.toNat_append, BitVec.extractLsb'_toNat,
    Nat.shiftRight_eq_div_pow, Nat.pow_zero, Nat.div_one]
  rw [← Nat.shiftLeft_add_eq_or_of_lt (Nat.mod_lt _ (by decide)), Nat.shiftLeft_eq]
  omega

end FieldNumbers

section FieldsOfPacked

variable (op n : Nibble) (x y : Reg) (nn : Byte) (nnn : Imm12)

@[simp] theorem opField_packNnn : opField (packNnn op nnn) = op := by
  have := nnn.isLt
  apply BitVec.eq_of_toNat_eq
  rw [opField_toNat, packNnn_toNat]
  omega

@[simp] theorem nnnField_packNnn : nnnField (packNnn op nnn) = nnn := by
  have := nnn.isLt
  apply BitVec.eq_of_toNat_eq
  rw [nnnField_toNat, packNnn_toNat]
  omega

@[simp] theorem opField_packXnn : opField (packXnn op x nn) = op := by
  have := nn.isLt
  have := x.isLt
  apply BitVec.eq_of_toNat_eq
  rw [opField_toNat, packXnn_toNat]
  omega

@[simp] theorem xField_packXnn : xField (packXnn op x nn) = x := by
  have := nn.isLt
  have := x.isLt
  apply Fin.ext
  rw [xField_val, packXnn_toNat]
  omega

@[simp] theorem nnField_packXnn : nnField (packXnn op x nn) = nn := by
  have := nn.isLt
  apply BitVec.eq_of_toNat_eq
  rw [nnField_toNat, packXnn_toNat]
  omega

@[simp] theorem opField_packXyn : opField (packXyn op x y n) = op := by
  have := n.isLt
  have := x.isLt
  have := y.isLt
  apply BitVec.eq_of_toNat_eq
  rw [opField_toNat, packXyn_toNat]
  omega

@[simp] theorem xField_packXyn : xField (packXyn op x y n) = x := by
  have := n.isLt
  have := x.isLt
  have := y.isLt
  apply Fin.ext
  rw [xField_val, packXyn_toNat]
  omega

@[simp] theorem yField_packXyn : yField (packXyn op x y n) = y := by
  have := n.isLt
  have := y.isLt
  apply Fin.ext
  rw [yField_val, packXyn_toNat]
  omega

@[simp] theorem nField_packXyn : nField (packXyn op x y n) = n := by
  have := n.isLt
  apply BitVec.eq_of_toNat_eq
  rw [nField_toNat, packXyn_toNat]
  omega

end FieldsOfPacked

/-- A word of format NNN is its two fields. -/
theorem packNnn_fields (w : Word) : packNnn (opField w) (nnnField w) = w := by
  apply BitVec.eq_of_toNat_eq
  rw [packNnn_toNat, opField_toNat, nnnField_toNat]
  omega

/-- A word of format XNN is its three fields. -/
theorem packXnn_fields (w : Word) : packXnn (opField w) (xField w) (nnField w) = w := by
  apply BitVec.eq_of_toNat_eq
  rw [packXnn_toNat, opField_toNat, xField_val, nnField_toNat]
  omega

/-- A word of format XYN is its four fields. -/
theorem packXyn_fields (w : Word) : packXyn (opField w) (xField w) (yField w) (nField w) = w := by
  apply BitVec.eq_of_toNat_eq
  rw [packXyn_toNat, opField_toNat, xField_val, yField_val, nField_toNat]
  omega

/-- The decoder rejects a word only as an illegal opcode, and names that word (R75, R211). -/
theorem decode_error (w : Word) (e : DecodeError) (h : decode w = .error e) : e = .illegalOpcode w := by
  have h0 : ∀ e, decode0 w = .error e → e = .illegalOpcode w := by
    intro e he
    simp only [decode0] at he
    split_ifs at he
    cases he; rfl
  have h8 : ∀ e, decode8 w = .error e → e = .illegalOpcode w := by
    intro e he
    simp only [decode8] at he
    split at he <;> cases he
    rfl
  have hE : ∀ e, decodeE w = .error e → e = .illegalOpcode w := by
    intro e he
    simp only [decodeE] at he
    split at he <;> cases he
    rfl
  have hF : ∀ e, decodeF w = .error e → e = .illegalOpcode w := by
    intro e he
    simp only [decodeF] at he
    split at he <;> cases he
    rfl
  simp only [decode] at h
  split at h
  case h_1 => exact h0 e h
  case h_6 | h_10 => split_ifs at h; cases h; rfl
  case h_9 => exact h8 e h
  case h_15 => exact hE e h
  case h_16 => exact hF e h
  all_goals cases h
  rfl

end Sys2Proof
end

