-- ==== Sys2Proof/Laws/Registers.lean ====
section
/-! SUPPORT. Reading a general register after each update of the register file (10_state.md R21 to R23). -/

namespace Sys2Proof.Machine

variable (s : State)

@[simp] theorem State.getV_setV (x r : Reg) (b : Byte) :
    (s.setV x b).getV r = if r = x then b else s.getV r := by
  by_cases h : r = x
  · subst h; simp [State.getV, State.setV]
  · have : x.val ≠ r.val := fun e => h (Fin.ext e.symm)
    simp [State.getV, State.setV, h, this]

@[simp] theorem State.getV_advance (r : Reg) : s.advance.getV r = s.getV r := rfl

@[simp] theorem State.getV_setPc (a : Word) (r : Reg) : (s.setPc a).getV r = s.getV r := rfl

@[simp] theorem State.getV_setI (a : Word) (r : Reg) : (s.setI a).getV r = s.getV r := rfl

@[simp] theorem State.getV_askRandom (r : Reg) : s.askRandom.getV r = s.getV r := rfl

@[simp] theorem State.getV_askDraw (cx cy : Byte) (bytes : List Byte) (r : Reg) :
    (s.askDraw cx cy bytes).getV r = s.getV r := rfl

@[simp] theorem State.getV_askKeyDown (k : Byte) (r : Reg) : (s.askKeyDown k).getV r = s.getV r := rfl

@[simp] theorem State.getV_askKeyWait (r : Reg) : s.askKeyWait.getV r = s.getV r := rfl

@[simp] theorem State.getV_markStarted (r : Reg) : s.markStarted.getV r = s.getV r := rfl

@[simp] theorem State.getV_popScript (r : Reg) : s.popScript.getV r = s.getV r := rfl

/-- A result without a flag changes the destination alone. -/
@[simp] theorem State.getV_writeResult (x r : Reg) (b : Byte) :
    (s.writeResult x b).getV r = if r = x then b else s.getV r := by
  simp [State.writeResult]

/-- A result with a flag: VF holds the flag even where it is the destination (R23). -/
@[simp] theorem State.getV_writeResultFlag (x r : Reg) (b : Byte) (f : Bool) :
    (s.writeResultFlag x b f).getV r = if r = vf then flagByte f else if r = x then b else s.getV r := by
  simp [State.writeResultFlag]

/-- Loading bytes changes the registers whose number is below their count (R155). -/
@[simp] theorem State.getV_setVBlock (bytes : List Byte) (r : Reg) :
    (s.setVBlock bytes).getV r = (bytes[r.val]?).getD (s.getV r) := by
  simp [State.getV, State.setVBlock]

/-- The bytes Fx55 stores: as many as `blockLength`. -/
@[simp] theorem State.vBlock_length (x : Reg) : (s.vBlock x).length = blockLength x := by
  simp [State.vBlock, blockLength]

/-- The bytes Fx55 stores: byte k is V[k] (R154). -/
theorem State.vBlock_getElem (x r : Reg) (h : r ≤ x) : (s.vBlock x)[r.val]? = some (s.getV r) := by
  have hx : r.val < x.val + 1 := Nat.lt_succ_of_le h
  simp [State.vBlock, State.getV, hx]

theorem flagByte_eq (f : Bool) : flagByte f = if f then 1 else 0 := rfl

theorem carryOut_iff (a b : Byte) : carryOut a b = true ↔ 255 < a.toNat + b.toNat := by
  simp [carryOut]

theorem noBorrow_iff (a b : Byte) : noBorrow a b = true ↔ b.toNat ≤ a.toNat := by
  simp [noBorrow]

theorem lowBit_iff (a : Byte) : lowBit a = true ↔ a.toNat % 2 = 1 := by
  simp [lowBit, BitVec.getLsbD, Nat.testBit_zero]

theorem highBit_iff (a : Byte) : highBit a = true ↔ 128 ≤ a.toNat := by
  have := a.isLt
  simp only [highBit, BitVec.getLsbD, Nat.testBit_eq_decide_div_mod_eq, decide_eq_true_eq]
  omega

end Sys2Proof.Machine
end

