-- ==== Sys2Proof/Laws/Memory.lean ====
section
/-! SUPPORT. The laws of memory: what a read gives after a write, that every operation keeps the canonical form, and
what the block operations of Dxyn, Fx33, Fx55 and Fx65 do (20_memory.md R54 to R60). -/

namespace Sys2Proof.Machine

namespace Memory

/-- Dropping the cells of one address: that address reads 0, the others as before. -/
theorem readByte_filter (m : Memory) (a b : Nat) :
    Memory.readByte (m.filter fun c => decide (c.1 ≠ a)) b = if b = a then 0 else m.readByte b := by
  induction m with
  | nil => simp [Memory.readByte]
  | cons c m ih =>
    by_cases hc : c.1 = a
    · rw [List.filter_cons_of_neg (by simp [hc]), ih]
      by_cases hb : b = a
      · simp only [hb, if_true]
      · have : c.1 ≠ b := fun e => hb (e ▸ hc)
        simp only [hb, if_false, Memory.readByte, this]
    · rw [List.filter_cons_of_pos (by simp [hc])]
      by_cases hcb : c.1 = b
      · have : b ≠ a := fun e => hc (hcb.trans e)
        simp only [Memory.readByte, hcb, if_true, this, if_false]
      · simp only [Memory.readByte, hcb, if_false, ih]

/-- Putting a cell into a list that has none of its address. -/
theorem readByte_insertCell (c : Host.Cell) (m : Memory) (b : Nat) (h : ∀ d ∈ m, d.1 ≠ c.1) :
    (Memory.insertCell c m).readByte b = if b = c.1 then c.2 else m.readByte b := by
  induction m with
  | nil =>
    by_cases hb : c.1 = b
    · simp only [Memory.insertCell, Memory.readByte, hb, if_true]
    · simp only [Memory.insertCell, Memory.readByte, hb, if_false, Ne.symm hb]
  | cons d m ih =>
    have hd : d.1 ≠ c.1 := h d (by simp)
    have hm := ih fun e he => h e (by simp [he])
    by_cases hlt : c.1 < d.1
    · by_cases hb : c.1 = b
      · subst hb
        simp only [Memory.insertCell, hlt, Memory.readByte, if_true]
      · simp only [Memory.insertCell, hlt, if_true, Memory.readByte, hb, if_false, Ne.symm hb]
    · simp only [Memory.insertCell, hlt, if_false, Memory.readByte, hm]
      by_cases hdb : d.1 = b
      · have : b ≠ c.1 := fun e => hd (hdb.trans e)
        simp only [hdb, if_true, this, if_false]
      · simp only [hdb, if_false]

/-- The law of one byte: a read gives what was written there last, and a write leaves every other address alone
(R54, R55). -/
@[simp] theorem readByte_writeByte (m : Memory) (a b : Nat) (x : Byte) :
    (m.writeByte a x).readByte b = if b = a then x else m.readByte b := by
  by_cases hx : x = 0
  · simp only [Memory.writeByte, hx, if_true, readByte_filter]
  · simp only [Memory.writeByte, hx, if_false]
    rw [readByte_insertCell _ _ _ (by simp), readByte_filter]
    by_cases hb : b = a
    · simp only [hb, if_true]
    · simp only [hb, if_false]

theorem mem_insertCell (c d : Host.Cell) (m : Memory) : d ∈ Memory.insertCell c m ↔ d = c ∨ d ∈ m := by
  induction m with
  | nil => simp [Memory.insertCell]
  | cons e m ih =>
    by_cases h : c.1 < e.1
    · simp [Memory.insertCell, h]
    · simp [Memory.insertCell, h, ih]; tauto

theorem pairwise_insertCell (c : Host.Cell) (m : Memory) (h : m.Pairwise fun c d => c.1 < d.1)
    (hc : ∀ d ∈ m, d.1 ≠ c.1) : (Memory.insertCell c m).Pairwise fun c d => c.1 < d.1 := by
  induction m with
  | nil => simp [Memory.insertCell]
  | cons e m ih =>
    rw [List.pairwise_cons] at h
    by_cases hlt : c.1 < e.1
    · simp only [Memory.insertCell, hlt, if_true, List.pairwise_cons]
      refine ⟨fun d hd => ?_, h⟩
      rcases List.mem_cons.mp hd with rfl | hd
      · exact hlt
      · exact hlt.trans (h.1 d hd)
    · simp only [Memory.insertCell, hlt, if_false, List.pairwise_cons]
      refine ⟨fun d hd => ?_, ih h.2 fun d hd => hc d (by simp [hd])⟩
      rcases (mem_insertCell c d m).mp hd with rfl | hd
      · exact lt_of_le_of_ne (not_lt.mp hlt) (hc e (by simp))
      · exact h.1 d hd

/-- Writing a byte within the 4096 keeps the canonical form. -/
theorem wf_writeByte (m : Memory) (a : Nat) (x : Byte) (h : m.wf) (ha : a < Config.memSize) :
    (m.writeByte a x).wf := by
  have hf : Memory.wf (m.filter fun c => decide (c.1 ≠ a)) :=
    ⟨h.1.filter _, fun c hc => h.2 c (List.mem_filter.mp hc).1⟩
  by_cases hx : x = 0
  · simpa only [Memory.writeByte, hx, if_true] using hf
  · simp only [Memory.writeByte, hx, if_false]
    refine ⟨pairwise_insertCell _ _ hf.1 (by simp), fun c hc => ?_⟩
    rcases (mem_insertCell _ _ _).mp hc with rfl | hc
    · exact ⟨ha, hx⟩
    · exact hf.2 c hc

/-- In canonical form, an address at or above 4096 is not listed. -/
theorem readByte_outside (m : Memory) (h : m.wf) (a : Nat) (ha : Config.memSize ≤ a) : m.readByte a = 0 := by
  obtain ⟨-, h⟩ := h
  induction m with
  | nil => rfl
  | cons c m ih =>
    have hc := (h c (by simp)).1
    have hne : c.1 ≠ a := by omega
    simp only [Memory.readByte, hne, if_false]
    exact ih fun d hd => h d (by simp [hd])

@[simp] theorem readBlock_length (m : Memory) (base len : Nat) : (m.readBlock base len).length = len := by
  induction len generalizing base with
  | zero => rfl
  | succ n ih => simp [Memory.readBlock, ih]

/-- Byte k of a block is the byte at base + k, and there are `len` of them (R60). -/
theorem readBlock_getElem (m : Memory) (base len k : Nat) :
    (m.readBlock base len)[k]? = if k < len then some (m.readByte (base + k)) else none := by
  induction len generalizing base k with
  | zero => simp [Memory.readBlock]
  | succ n ih =>
    cases k with
    | zero => simp [Memory.readBlock]
    | succ k => simp [Memory.readBlock, ih, Nat.add_assoc, Nat.add_comm 1 k]

/-- After a block is stored at `base`, byte k of it reads at base + k and every other address as before. -/
theorem readByte_writeBlock (m : Memory) (base : Nat) (bytes : List Byte) (a : Nat) :
    (m.writeBlock base bytes).readByte a =
      if base ≤ a then (bytes[a - base]?).getD (m.readByte a) else m.readByte a := by
  induction bytes generalizing m base with
  | nil => simp [Memory.writeBlock]
  | cons b bs ih =>
    simp only [Memory.writeBlock, ih, readByte_writeByte]
    by_cases h : base + 1 ≤ a
    · have h1 : base ≤ a := by omega
      have h2 : a - base = (a - (base + 1)) + 1 := by omega
      have h3 : a ≠ base := by omega
      simp [h, h1, h2, h3]
    · by_cases h4 : a = base
      · subst h4; simp
      · have h5 : ¬ base ≤ a := by omega
        simp [h, h4, h5]

/-- Storing a block within the 4096 bytes keeps the canonical form. -/
theorem wf_writeBlock (m : Memory) (base : Nat) (bytes : List Byte) (h : m.wf)
    (hb : base + bytes.length ≤ Config.memSize) : (m.writeBlock base bytes).wf := by
  induction bytes generalizing m base with
  | nil => exact h
  | cons b bs ih =>
    rw [List.length_cons] at hb
    exact ih _ _ (wf_writeByte m base b h (by omega)) (by omega)

end Memory

/-- The check of a block's addresses finds nothing exactly when the block is empty or lies below 4096, and otherwise
the lowest bad address: the base, or 4096 if the base is below it (R60, R210). -/
theorem firstOutOfRange_eq (base len : Nat) :
    firstOutOfRange base len =
      if len = 0 ∨ base + len ≤ Config.memSize then none else some (max base Config.memSize) := by
  induction len with
  | zero => simp [firstOutOfRange]
  | succ n ih =>
    rw [firstOutOfRange, ih]
    by_cases h0 : n = 0
    · subst h0
      by_cases h : base < Config.memSize
      · have : base + (0 + 1) ≤ Config.memSize := by omega
        simp [h, this]
      · have h1 : ¬ base + (0 + 1) ≤ Config.memSize := by omega
        have h2 : max base Config.memSize = base := by omega
        simp [h, h1, h2]
    · by_cases h1 : base + n ≤ Config.memSize
      · by_cases h2 : base + n < Config.memSize
        · have h3 : base + (n + 1) ≤ Config.memSize := by omega
          simp [h0, h1, h2, h3]
        · have h3 : ¬ base + (n + 1) ≤ Config.memSize := by omega
          have h4 : max base Config.memSize = base + n := by omega
          simp [h0, h1, h2, h3, h4]
      · have h3 : ¬ base + (n + 1) ≤ Config.memSize := by omega
        simp [h0, h1, h3]

/-- Everything a read of a block can do. -/
theorem State.loadBlock_eq (s : State) (base len : Nat) :
    s.loadBlock base len =
      if len = 0 ∨ base + len ≤ Config.memSize then .ok (s.mem.readBlock base len)
      else .error (.memRange (max base Config.memSize)) := by
  rw [State.loadBlock, firstOutOfRange_eq]
  by_cases h : len = 0 ∨ base + len ≤ Config.memSize <;> simp only [h, if_true, if_false]

/-- Everything a store of a block can do. -/
theorem State.storeBlock_eq (s : State) (base : Nat) (bytes : List Byte) :
    s.storeBlock base bytes =
      if bytes.length = 0 ∨ base + bytes.length ≤ Config.memSize then .ok (s.setMem (s.mem.writeBlock base bytes))
      else .error (.memRange (max base Config.memSize)) := by
  rw [State.storeBlock, firstOutOfRange_eq]
  by_cases h : bytes.length = 0 ∨ base + bytes.length ≤ Config.memSize <;> simp only [h, if_true, if_false]

/-- Everything a 16-bit fetch read can do: the word, or the fault of the lower bad address (R56, R57). -/
theorem memRead2_eq (m : Memory) (a : Nat) :
    memRead2 m a =
      if a + 1 < Config.memSize then .ok (wordOfBytes (m.readByte a) (m.readByte (a + 1)))
      else .error (.memRange (max a Config.memSize)) := by
  by_cases h1 : a + 1 < Config.memSize
  · have h0 : a < Config.memSize := by omega
    simp [memRead2, memRead, h0, h1]
  · by_cases h0 : a < Config.memSize
    · have h2 : max a Config.memSize = a + 1 := by omega
      simp [memRead2, memRead, h0, h1, h2]
    · have h2 : max a Config.memSize = a := by omega
      simp [memRead2, memRead, h0, h1, h2]

end Sys2Proof.Machine
end

