-- ==== Sys2Proof/Laws/Step.lean ====
section
/-! SUPPORT. Everything the call stack, a fetch, a cycle and a step can do, said once (10_state.md R29, R33; 20_memory.md
R57; 60_exceptions.md R201, R204, R214). -/

namespace Sys2Proof.Machine

@[simp] theorem complete_ok (s t : State) : complete s (.ok t) = .next t := rfl

@[simp] theorem complete_error (s : State) (t : Trap) : complete s (.error t) = .next (s.raise t) := rfl

/-- A cycle that completes or faults always has a next state. -/
theorem complete_next (s : State) (r : Except Trap State) : ∃ t, complete s r = .next t := by
  cases r <;> exact ⟨_, rfl⟩

/-- Everything a push can do (R29). -/
theorem State.push_eq (s : State) (a : Word) :
    s.push a =
      if s.sp.toNat < Config.stackDepth then
        .ok { s with stack := s.stack.setIfInBounds s.sp.toNat a, sp := s.sp + 1 }
      else .error (.stackOverflow s.pc) := by
  by_cases h : s.sp.toNat < Config.stackDepth
  · have h' : ¬ Config.stackDepth ≤ s.sp.toNat := by omega
    simp only [State.push, h, h', if_true, if_false]
  · have h' : Config.stackDepth ≤ s.sp.toNat := by omega
    simp only [State.push, h, h', if_true, if_false]

theorem sp_sub_one_toNat (b : Byte) (h : b ≠ 0) : (b - 1).toNat = b.toNat - 1 := by
  have hb : b.toNat ≠ 0 := fun e => h (BitVec.eq_of_toNat_eq e)
  have := b.isLt
  rw [BitVec.toNat_sub]
  simp
  omega

/-- A pop with one to sixteen slots in use gives the newest slot (R29). -/
theorem State.popSlot_eq (s : State) (j : Fin 16) (h : s.sp.toNat = j.val + 1) :
    s.popSlot = some (s.stack[j], { s with sp := s.sp - 1 }) := by
  have h0 : s.sp ≠ 0 := fun e => by simp [e] at h
  have h1 : (s.sp - 1).toNat = j.val := by rw [sp_sub_one_toNat _ h0, h]; omega
  have h2 : s.stack[(s.sp - 1).toNat]? = some s.stack[j] := by
    rw [h1]; exact Vector.getElem?_eq_getElem j.isLt
  simp only [State.popSlot, h2]

/-- Everything a fetch can do: the word at pc, or the fault of the lower bad address (R57). -/
theorem State.fetch_eq (s : State) :
    s.fetch =
      if s.pc.toNat + 1 < Config.memSize then
        .ok (wordOfBytes (s.mem.readByte s.pc.toNat) (s.mem.readByte (s.pc.toNat + 1)))
      else .error (.memRange (max s.pc.toNat Config.memSize)) :=
  memRead2_eq s.mem s.pc.toNat

/-- A fetched and decoded instruction was fetched from pc and pc + 1, both below 4096 (R27). -/
theorem State.fetchDecode_ok (s : State) (i : Instr) (h : s.fetchDecode = .ok i) :
    s.pc.toNat + 1 < Config.memSize ∧
      decode (wordOfBytes (s.mem.readByte s.pc.toNat) (s.mem.readByte (s.pc.toNat + 1))) = .ok i := by
  by_cases hp : s.pc.toNat + 1 < Config.memSize
  · refine ⟨hp, ?_⟩
    simp only [State.fetchDecode, State.fetch_eq, hp, if_true] at h
    split at h
    · rename_i j hj; cases h; exact hj
    · cases h
  · simp [State.fetchDecode, State.fetch_eq, hp] at h

/-- A cycle begins with nothing of CORE changed. -/
@[simp] theorem State.fetchDecode_markStarted (s : State) : s.markStarted.fetchDecode = s.fetchDecode := rfl

@[simp] theorem State.fetchDecode_popScript (s : State) : s.popScript.fetchDecode = s.fetchDecode := rfl

theorem cycle_halted (s : State) (h : s.halted = true) : cycle s = .next s := by
  simp [cycle, h]

theorem cycle_fault (s : State) (h : s.halted = false) (t : Trap) (ht : s.fetchDecode = .error t) :
    cycle s = .next (s.markStarted.raise t) := by
  simp [cycle, h, ht]

theorem cycle_exec (s : State) (h : s.halted = false) (i : Instr) (hi : s.fetchDecode = .ok i) :
    cycle s = exec i s.markStarted := by
  simp [cycle, h, hi]

/-- Everything a cycle can do (R33): nothing while halted, else the instruction, or the fault of fetch or decode. -/
theorem cycle_cases (s : State) :
    (s.halted = true ∧ cycle s = .next s) ∨
    (∃ i, s.halted = false ∧ s.fetchDecode = .ok i ∧ cycle s = exec i s.markStarted) ∨
    (∃ t, s.halted = false ∧ s.fetchDecode = .error t ∧ cycle s = .next (s.markStarted.raise t)) := by
  cases h : s.halted with
  | true => exact .inl ⟨rfl, cycle_halted s h⟩
  | false =>
    cases hf : s.fetchDecode with
    | ok i => exact .inr (.inl ⟨i, rfl, rfl, cycle_exec s h i hf⟩)
    | error t => exact .inr (.inr ⟨t, rfl, rfl, cycle_fault s h t hf⟩)

/-- Everything a step can do: the script's next move, or a cycle when nothing is scripted. -/
theorem step_cases (s : State) :
    (s.nextMove = .cycle ∧ step s = cycle s.popScript) ∨
    (s.nextMove = .tick ∧ step s = .next s.popScript.timerTick) ∨
    (s.nextMove = .reset ∧ step s = .next s.popScript.hostReset) ∨
    (∃ a b, s.nextMove = .load a b ∧ step s = loaderWrite s.popScript a b) := by
  cases h : s.nextMove with
  | cycle => exact .inl ⟨rfl, by rw [step, h, hostMove]⟩
  | tick => exact .inr (.inl ⟨rfl, by rw [step, h, hostMove]⟩)
  | reset => exact .inr (.inr (.inl ⟨rfl, by rw [step, h, hostMove]⟩))
  | load a b => exact .inr (.inr (.inr ⟨a, b, rfl, by rw [step, h, hostMove]⟩))

/-- Everything a loader write can do (R256). -/
theorem loaderWrite_next (s t : State) (a : Nat) (b : Byte) (h : loaderWrite s a b = .next t) :
    s.env.started = false ∧ a < Config.memSize ∧ t = s.setMem (s.mem.writeByte a b) := by
  by_cases hs : s.env.started = true
  · simp [loaderWrite, hs] at h
  · by_cases ha : a < Config.memSize
    · simp only [loaderWrite, hs, memWrite, ha, if_true] at h
      cases h
      exact ⟨by simpa using hs, ha, rfl⟩
    · simp [loaderWrite, hs, memWrite, ha] at h

end Sys2Proof.Machine
end

