-- ==== Sys2Proof/Laws/Exec.lean ====
section
/-! SUPPORT. The outcome of each instruction that can fault, as one equation: the state it leaves, or the fault it
raises in the state it started from (40_control.md R101, R103; 44_index_memory.md R153 to R155; 46_io.md R172). -/

namespace Sys2Proof.Machine

theorem execCallNnn_eq (nnn : Imm12) (s : State) :
    execCallNnn nnn s =
      if s.sp.toNat < Config.stackDepth then
        .next { s with stack := s.stack.setIfInBounds s.sp.toNat s.pc, sp := s.sp + 1, pc := zextImm nnn }
      else .next (s.raise (.stackOverflow s.pc)) := by
  rw [execCallNnn, State.push_eq]
  split_ifs <;> rfl

theorem execRet_empty (s : State) (h : s.sp = 0) : execRet s = .next (s.raise (.stackUnderflow s.pc)) := by
  rw [execRet, if_pos h]

theorem execRet_slot (s : State) (j : Fin 16) (h : s.sp.toNat = j.val + 1) :
    execRet s = .next { s with sp := s.sp - 1, pc := s.stack[j] } := by
  have h0 : s.sp ≠ 0 := fun e => by simp [e] at h
  rw [execRet, if_neg h0, State.popSlot_eq s j h]
  rfl

theorem execRet_noSlot (s : State) (h : 16 < s.sp.toNat) :
    execRet s = .fault (.noSuchStackSlot (s.sp.toNat - 1)) := by
  have h0 : s.sp ≠ 0 := fun e => by simp [e] at h
  have hj := sp_sub_one_toNat s.sp h0
  have h1 : s.popSlot = none := by
    have : s.stack[(s.sp - 1).toNat]? = none := Vector.getElem?_eq_none (by omega)
    simp only [State.popSlot, this]
  rw [execRet, if_neg h0, h1, hj]

/-- Everything a return can do. -/
theorem execRet_cases (s : State) :
    (s.sp = 0 ∧ execRet s = .next (s.raise (.stackUnderflow s.pc))) ∨
    (∃ j : Fin 16, s.sp.toNat = j.val + 1 ∧ execRet s = .next { s with sp := s.sp - 1, pc := s.stack[j] }) ∨
    (16 < s.sp.toNat ∧ execRet s = .fault (.noSuchStackSlot (s.sp.toNat - 1))) := by
  by_cases h0 : s.sp = 0
  · exact .inl ⟨h0, execRet_empty s h0⟩
  · have hne : s.sp.toNat ≠ 0 := fun e => h0 (BitVec.eq_of_toNat_eq e)
    by_cases h1 : 16 < s.sp.toNat
    · exact .inr (.inr ⟨h1, execRet_noSlot s h1⟩)
    · have hj : s.sp.toNat = (⟨s.sp.toNat - 1, by omega⟩ : Fin 16).val + 1 := by
        show s.sp.toNat = s.sp.toNat - 1 + 1
        omega
      exact .inr (.inl ⟨_, hj, execRet_slot s _ hj⟩)

theorem execLdBVx_eq (x : Reg) (s : State) :
    execLdBVx x s =
      if s.i.toNat + 3 ≤ Config.memSize then
        .next (s.setMem (s.mem.writeBlock s.i.toNat (bcdDigits (s.getV x)))).advance
      else .next (s.raise (.memRange (max s.i.toNat Config.memSize))) := by
  have hl : (bcdDigits (s.getV x)).length = 3 := rfl
  simp only [execLdBVx, State.storeBlock_eq, hl, State.base, OfNat.ofNat_ne_zero, false_or]
  split_ifs <;> rfl

theorem execLdMemVx_eq (x : Reg) (s : State) :
    execLdMemVx x s =
      if s.i.toNat + blockLength x ≤ Config.memSize then
        .next (s.setMem (s.mem.writeBlock s.i.toNat (s.vBlock x))).advance
      else .next (s.raise (.memRange (max s.i.toNat Config.memSize))) := by
  have h0 : blockLength x ≠ 0 := Nat.succ_ne_zero _
  simp only [execLdMemVx, State.storeBlock_eq, State.vBlock_length, State.base, h0, false_or]
  split_ifs <;> rfl

theorem execLdVxMem_eq (x : Reg) (s : State) :
    execLdVxMem x s =
      if s.i.toNat + blockLength x ≤ Config.memSize then
        .next (s.setVBlock (s.mem.readBlock s.i.toNat (blockLength x))).advance
      else .next (s.raise (.memRange (max s.i.toNat Config.memSize))) := by
  have h0 : blockLength x ≠ 0 := Nat.succ_ne_zero _
  simp only [execLdVxMem, State.loadBlock_eq, State.base, h0, false_or]
  split_ifs <;> rfl

/-- What Dxyn leaves once the bytes are read (R172). -/
theorem execDrwVxVyN_eq (x y : Reg) (n : Nibble) (s : State) :
    execDrwVxVyN x y n s =
      if n.toNat = 0 ∨ s.i.toNat + n.toNat ≤ Config.memSize then
        .next ((s.askDraw (s.getV x) (s.getV y) (s.mem.readBlock s.i.toNat n.toNat)).writeResult vf
          (flagByte (s.collisionAnswer (s.getV x) (s.getV y) (s.mem.readBlock s.i.toNat n.toNat))))
      else .next (s.raise (.memRange (max s.i.toNat Config.memSize))) := by
  simp only [execDrwVxVyN, State.loadBlock_eq, State.base]
  split_ifs <;> rfl

/-- The instructions that can raise a fault or that pop the stack; every other one is a single next state by
definition of its meaning (R214). -/
def mayStop : Instr → Prop
  | .ret | .callNnn _ | .ldBVx _ | .ldMemVx _ | .ldVxMem _ | .drwVxVyN _ _ _ => True
  | _ => False

/-- Inversion of `exec`: a property of every instruction, start and next state follows from the two outcomes of each of
the six instructions that may stop, and from the single outcome of each of the others. -/
theorem exec_next_cases (P : Instr → State → State → Prop) (s : State)
    (ret_empty : s.sp = 0 → P .ret s (s.raise (.stackUnderflow s.pc)))
    (ret_slot : ∀ j : Fin 16, s.sp.toNat = j.val + 1 → P .ret s { s with sp := s.sp - 1, pc := s.stack[j] })
    (call_full : ∀ nnn, ¬ s.sp.toNat < Config.stackDepth → P (.callNnn nnn) s (s.raise (.stackOverflow s.pc)))
    (call_free : ∀ nnn, s.sp.toNat < Config.stackDepth → P (.callNnn nnn) s
      { s with stack := s.stack.setIfInBounds s.sp.toNat s.pc, sp := s.sp + 1, pc := zextImm nnn })
    (bcd_bad : ∀ x, ¬ s.i.toNat + 3 ≤ Config.memSize →
      P (.ldBVx x) s (s.raise (.memRange (max s.i.toNat Config.memSize))))
    (bcd_ok : ∀ x, s.i.toNat + 3 ≤ Config.memSize →
      P (.ldBVx x) s (s.setMem (s.mem.writeBlock s.i.toNat (bcdDigits (s.getV x)))).advance)
    (store_bad : ∀ x, ¬ s.i.toNat + blockLength x ≤ Config.memSize →
      P (.ldMemVx x) s (s.raise (.memRange (max s.i.toNat Config.memSize))))
    (store_ok : ∀ x, s.i.toNat + blockLength x ≤ Config.memSize →
      P (.ldMemVx x) s (s.setMem (s.mem.writeBlock s.i.toNat (s.vBlock x))).advance)
    (load_bad : ∀ x, ¬ s.i.toNat + blockLength x ≤ Config.memSize →
      P (.ldVxMem x) s (s.raise (.memRange (max s.i.toNat Config.memSize))))
    (load_ok : ∀ x, s.i.toNat + blockLength x ≤ Config.memSize →
      P (.ldVxMem x) s (s.setVBlock (s.mem.readBlock s.i.toNat (blockLength x))).advance)
    (draw_bad : ∀ x y n, ¬ (n.toNat = 0 ∨ s.i.toNat + n.toNat ≤ Config.memSize) →
      P (.drwVxVyN x y n) s (s.raise (.memRange (max s.i.toNat Config.memSize))))
    (draw_ok : ∀ x y n, n.toNat = 0 ∨ s.i.toNat + n.toNat ≤ Config.memSize → P (.drwVxVyN x y n) s
      ((s.askDraw (s.getV x) (s.getV y) (s.mem.readBlock s.i.toNat n.toNat)).writeResult vf
        (flagByte (s.collisionAnswer (s.getV x) (s.getV y) (s.mem.readBlock s.i.toNat n.toNat)))))
    (others : ∀ i t, ¬ mayStop i → exec i s = .next t → P i s t) :
    ∀ i t, exec i s = .next t → P i s t := by
  intro i t h
  by_cases hi : mayStop i
  · cases i <;> simp only [mayStop] at hi
    case ret =>
      rcases execRet_cases s with ⟨h0, e⟩ | ⟨j, h0, e⟩ | ⟨h0, e⟩ <;> rw [exec, e] at h <;> cases h
      · exact ret_empty h0
      · exact ret_slot j h0
    case callNnn nnn =>
      rw [exec, execCallNnn_eq] at h
      split_ifs at h with hc <;> cases h
      · exact call_free nnn hc
      · exact call_full nnn hc
    case ldBVx x =>
      rw [exec, execLdBVx_eq] at h
      split_ifs at h with hc <;> cases h
      · exact bcd_ok x hc
      · exact bcd_bad x hc
    case ldMemVx x =>
      rw [exec, execLdMemVx_eq] at h
      split_ifs at h with hc <;> cases h
      · exact store_ok x hc
      · exact store_bad x hc
    case ldVxMem x =>
      rw [exec, execLdVxMem_eq] at h
      split_ifs at h with hc <;> cases h
      · exact load_ok x hc
      · exact load_bad x hc
    case drwVxVyN x y n =>
      rw [exec, execDrwVxVyN_eq] at h
      split_ifs at h with hc <;> cases h
      · exact draw_ok x y n hc
      · exact draw_bad x y n hc
  · exact others i t hi h

/-- An instruction that cannot stop always has a next state. -/
theorem exec_next_of_not_mayStop (i : Instr) (s : State) (h : ¬ mayStop i) : ∃ t, exec i s = .next t := by
  cases i <;> first | exact ⟨_, rfl⟩ | exact absurd trivial h

/-- What Fx0A leaves: the state as it is, or the key in Vx (R175). -/
theorem State.takeKey_cases (s : State) (x : Reg) (k : Option Nibble) :
    (k = none ∧ s.takeKey x k = s) ∨ (∃ c, k = some c ∧ s.takeKey x k = s.writeResult x (zextKey c)) := by
  cases k with
  | none => exact .inl ⟨rfl, rfl⟩
  | some c => exact .inr ⟨c, rfl, rfl⟩

end Sys2Proof.Machine
end

