-- ==== Sys2Proof/Laws/PerInstr.lean ====
section
/-! SUPPORT. The family EncodedWordMatchesRow: for every instruction, its row stands in the opcode map and covers the
word the encoder gives it (30_encoding.md R76), one lemma per constructor. -/

namespace Sys2Proof

section Masks

variable (op n : Nibble) (x y : Reg) (nn : Byte) (nnn : Imm12)

/-- The mask of format NNN keeps the family. -/
theorem packNnn_mask : packNnn op nnn &&& 0xF000 = packNnn op 0 := by
  have h : (0xF000 : Word) = (0xF#4 ++ 0#12 : Word) := rfl
  rw [h, packNnn, packNnn, BitVec.and_append, BitVec.and_zero]
  congr 1
  exact BitVec.and_allOnes (x := op)

/-- The mask of format XNN keeps the family. -/
theorem packXnn_mask : packXnn op x nn &&& 0xF000 = packXnn op 0 0 := by
  have h : (0xF000 : Word) = (0xF#4 ++ 0#4 ++ 0#8 : Word) := rfl
  rw [h, packXnn, packXnn, BitVec.and_append, BitVec.and_append, BitVec.and_zero, BitVec.and_zero]
  congr 2
  exact BitVec.and_allOnes (x := op)

/-- The mask of format X keeps the family and the low byte. -/
theorem packXnn_mask_low : packXnn op x nn &&& 0xF0FF = packXnn op 0 nn := by
  have h : (0xF0FF : Word) = (0xF#4 ++ 0#4 ++ 0xFF#8 : Word) := rfl
  rw [h, packXnn, packXnn, BitVec.and_append, BitVec.and_append, BitVec.and_zero]
  congr 1
  · congr 1
    exact BitVec.and_allOnes (x := op)
  · exact BitVec.and_allOnes (x := nn)

/-- The mask of format XYN keeps the family. -/
theorem packXyn_mask : packXyn op x y n &&& 0xF000 = packXyn op 0 0 0 := by
  have h : (0xF000 : Word) = (0xF#4 ++ 0#4 ++ 0#4 ++ 0#4 : Word) := rfl
  rw [h, packXyn, packXyn, BitVec.and_append, BitVec.and_append, BitVec.and_append, BitVec.and_zero, BitVec.and_zero,
    BitVec.and_zero]
  congr 3
  exact BitVec.and_allOnes (x := op)

/-- The mask of format XY keeps the family and the low nibble. -/
theorem packXyn_mask_low : packXyn op x y n &&& 0xF00F = packXyn op 0 0 n := by
  have h : (0xF00F : Word) = (0xF#4 ++ 0#4 ++ 0#4 ++ 0xF#4 : Word) := rfl
  rw [h, packXyn, packXyn, BitVec.and_append, BitVec.and_append, BitVec.and_append, BitVec.and_zero, BitVec.and_zero]
  congr 1
  · congr 2
    exact BitVec.and_allOnes (x := op)
  · exact BitVec.and_allOnes (x := n)

end Masks

end Sys2Proof

namespace Sys2Proof.Laws.EncodedWordMatchesRow

/-- The family's statement about one instruction. -/
def Statement (i : Instr) : Prop := i.wellFormed = true ∧ i.row.covers (encode i) = true

/-- From the masked word to the family's statement. -/
theorem statement_of (i : Instr) (hw : i.wellFormed = true) (h : encode i &&& i.row.mask = i.row.fixed) :
    Statement i :=
  ⟨hw, by simp [Row.covers, h]⟩

theorem nop : Statement .nop := statement_of _ rfl rfl

theorem cls : Statement .cls := statement_of _ rfl rfl

theorem ret : Statement .ret := statement_of _ rfl rfl

theorem jpNnn (nnn : Imm12) : Statement (.jpNnn nnn) := statement_of _ rfl (packNnn_mask _ _)

theorem callNnn (nnn : Imm12) : Statement (.callNnn nnn) := statement_of _ rfl (packNnn_mask _ _)

theorem seVxNn (x : Reg) (nn : Byte) : Statement (.seVxNn x nn) := statement_of _ rfl (packXnn_mask _ _ _)

theorem sneVxNn (x : Reg) (nn : Byte) : Statement (.sneVxNn x nn) := statement_of _ rfl (packXnn_mask _ _ _)

theorem seVxVy (x y : Reg) : Statement (.seVxVy x y) := statement_of _ rfl (packXyn_mask_low _ _ _ _)

theorem ldVxNn (x : Reg) (nn : Byte) : Statement (.ldVxNn x nn) := statement_of _ rfl (packXnn_mask _ _ _)

theorem addVxNn (x : Reg) (nn : Byte) : Statement (.addVxNn x nn) := statement_of _ rfl (packXnn_mask _ _ _)

theorem ldVxVy (x y : Reg) : Statement (.ldVxVy x y) := statement_of _ rfl (packXyn_mask_low _ _ _ _)

theorem orVxVy (x y : Reg) : Statement (.orVxVy x y) := statement_of _ rfl (packXyn_mask_low _ _ _ _)

theorem andVxVy (x y : Reg) : Statement (.andVxVy x y) := statement_of _ rfl (packXyn_mask_low _ _ _ _)

theorem xorVxVy (x y : Reg) : Statement (.xorVxVy x y) := statement_of _ rfl (packXyn_mask_low _ _ _ _)

theorem addVxVy (x y : Reg) : Statement (.addVxVy x y) := statement_of _ rfl (packXyn_mask_low _ _ _ _)

theorem subVxVy (x y : Reg) : Statement (.subVxVy x y) := statement_of _ rfl (packXyn_mask_low _ _ _ _)

theorem shrVxVy (x y : Reg) : Statement (.shrVxVy x y) := statement_of _ rfl (packXyn_mask_low _ _ _ _)

theorem subnVxVy (x y : Reg) : Statement (.subnVxVy x y) := statement_of _ rfl (packXyn_mask_low _ _ _ _)

theorem shlVxVy (x y : Reg) : Statement (.shlVxVy x y) := statement_of _ rfl (packXyn_mask_low _ _ _ _)

theorem sneVxVy (x y : Reg) : Statement (.sneVxVy x y) := statement_of _ rfl (packXyn_mask_low _ _ _ _)

theorem ldINnn (nnn : Imm12) : Statement (.ldINnn nnn) := statement_of _ rfl (packNnn_mask _ _)

theorem jpV0Nnn (nnn : Imm12) : Statement (.jpV0Nnn nnn) := statement_of _ rfl (packNnn_mask _ _)

theorem rndVxNn (x : Reg) (nn : Byte) : Statement (.rndVxNn x nn) := statement_of _ rfl (packXnn_mask _ _ _)

theorem drwVxVyN (x y : Reg) (n : Nibble) : Statement (.drwVxVyN x y n) := statement_of _ rfl (packXyn_mask _ _ _ _)

theorem skpVx (x : Reg) : Statement (.skpVx x) := statement_of _ rfl (packXnn_mask_low _ _ _)

theorem sknpVx (x : Reg) : Statement (.sknpVx x) := statement_of _ rfl (packXnn_mask_low _ _ _)

theorem ldVxDt (x : Reg) : Statement (.ldVxDt x) := statement_of _ rfl (packXnn_mask_low _ _ _)

theorem ldVxK (x : Reg) : Statement (.ldVxK x) := statement_of _ rfl (packXnn_mask_low _ _ _)

theorem ldDtVx (x : Reg) : Statement (.ldDtVx x) := statement_of _ rfl (packXnn_mask_low _ _ _)

theorem ldStVx (x : Reg) : Statement (.ldStVx x) := statement_of _ rfl (packXnn_mask_low _ _ _)

theorem addIVx (x : Reg) : Statement (.addIVx x) := statement_of _ rfl (packXnn_mask_low _ _ _)

theorem ldFVx (x : Reg) : Statement (.ldFVx x) := statement_of _ rfl (packXnn_mask_low _ _ _)

theorem ldBVx (x : Reg) : Statement (.ldBVx x) := statement_of _ rfl (packXnn_mask_low _ _ _)

theorem ldMemVx (x : Reg) : Statement (.ldMemVx x) := statement_of _ rfl (packXnn_mask_low _ _ _)

theorem ldVxMem (x : Reg) : Statement (.ldVxMem x) := statement_of _ rfl (packXnn_mask_low _ _ _)

/-- The family's statement of every instruction. -/
theorem statement (i : Instr) : Statement i := by
  cases i with
  | nop => exact nop
  | cls => exact cls
  | ret => exact ret
  | jpNnn nnn => exact jpNnn nnn
  | callNnn nnn => exact callNnn nnn
  | seVxNn x nn => exact seVxNn x nn
  | sneVxNn x nn => exact sneVxNn x nn
  | seVxVy x y => exact seVxVy x y
  | ldVxNn x nn => exact ldVxNn x nn
  | addVxNn x nn => exact addVxNn x nn
  | ldVxVy x y => exact ldVxVy x y
  | orVxVy x y => exact orVxVy x y
  | andVxVy x y => exact andVxVy x y
  | xorVxVy x y => exact xorVxVy x y
  | addVxVy x y => exact addVxVy x y
  | subVxVy x y => exact subVxVy x y
  | shrVxVy x y => exact shrVxVy x y
  | subnVxVy x y => exact subnVxVy x y
  | shlVxVy x y => exact shlVxVy x y
  | sneVxVy x y => exact sneVxVy x y
  | ldINnn nnn => exact ldINnn nnn
  | jpV0Nnn nnn => exact jpV0Nnn nnn
  | rndVxNn x nn => exact rndVxNn x nn
  | drwVxVyN x y n => exact drwVxVyN x y n
  | skpVx x => exact skpVx x
  | sknpVx x => exact sknpVx x
  | ldVxDt x => exact ldVxDt x
  | ldVxK x => exact ldVxK x
  | ldDtVx x => exact ldDtVx x
  | ldStVx x => exact ldStVx x
  | addIVx x => exact addIVx x
  | ldFVx x => exact ldFVx x
  | ldBVx x => exact ldBVx x
  | ldMemVx x => exact ldMemVx x
  | ldVxMem x => exact ldVxMem x

end Sys2Proof.Laws.EncodedWordMatchesRow
end

