-- ==== Sys2Proof/Tests/Slice0.lean ====
section
/-! SUPPORT. The model's own tests. The expected values are the spec's: 95_test_vectors.md, whose number each test
names (A: the source's worked examples; B: derived in that file from the rules), and 30_encoding.md R76 for words.
Then a witness for every statement that has hypotheses, with each of its clauses at a boundary value. -/

namespace Sys2Proof.Tests

open Sys2Proof.Machine Sys2Proof.Claims

/-! ## Small states -/

/-- The state after one step that runs the word, the word placed at pc. -/
def after (s : State) (w : Nat) : Option State :=
  match step (s.withFetchWord 16 w) with
  | .next t => some t
  | _ => none

/-- The state after one step as it stands. -/
def stepped (s : State) : Option State :=
  match step s with
  | .next t => some t
  | _ => none

/-- The reset state with some registers set. -/
def regs (l : List (Reg × Byte)) : State := l.foldl (fun s p => s.setV p.1 p.2) State.reset

/-- V[k] = k + 0x10 (A6, B6.18). -/
def ramp : State := { State.reset with v := Vector.ofFn fun k : Fin 16 => BitVec.ofNat 8 (k.val + 0x10) }

/-- The bytes at some addresses. -/
def bytesAt (s : State) (l : List Nat) : List Byte := l.map s.mem.readByte

/-- The fault outputs and pc (R206). -/
def faultOf (s : State) : Bool × Nat × Nat × Word := (s.faultOutputs.1, s.faultOutputs.2.1, s.faultOutputs.2.2, s.pc)

/-- A halted state at the bounds of the invariant. -/
def brim : State :=
  { State.reset with
    pc := 0x10FE, sp := 16, stack := Vector.replicate 16 0xFFE, mem := [(0x200, 0x12), (0xFFF, 0xFF)],
    halted := true, faultCause := .memRange, faultInfo := 0x10FE }

/-- A running state that waits for the last byte of a longest image. -/
def loading : State :=
  { State.reset with
    sp := 16, stack := Vector.replicate 16 0xFFE, mem := [(0x200, 0x12)],
    env := { Env.quiet with script := [.load 0xFFF 0xFF] } }

/-! ## Words written out from R76, one per instruction, and illegal neighbours (B1) -/

theorem test_decode_control :
    decode 0x0000 = .ok .nop ∧ decode 0x00E0 = .ok .cls ∧ decode 0x00EE = .ok .ret ∧
    decode 0x1FFF = .ok (.jpNnn 0xFFF) ∧ decode 0x2ABC = .ok (.callNnn 0xABC) ∧
    decode 0xB123 = .ok (.jpV0Nnn 0x123) := by decide

theorem test_decode_skips_and_immediates :
    decode 0x3A7F = .ok (.seVxNn 0xA 0x7F) ∧ decode 0x4A7F = .ok (.sneVxNn 0xA 0x7F) ∧
    decode 0x5AB0 = .ok (.seVxVy 0xA 0xB) ∧ decode 0x9AB0 = .ok (.sneVxVy 0xA 0xB) ∧
    decode 0x6F01 = .ok (.ldVxNn 0xF 0x01) ∧ decode 0x7A01 = .ok (.addVxNn 0xA 0x01) := by decide

theorem test_decode_alu :
    decode 0x8AB0 = .ok (.ldVxVy 0xA 0xB) ∧ decode 0x8AB1 = .ok (.orVxVy 0xA 0xB) ∧
    decode 0x8AB2 = .ok (.andVxVy 0xA 0xB) ∧ decode 0x8AB3 = .ok (.xorVxVy 0xA 0xB) ∧
    decode 0x8AB4 = .ok (.addVxVy 0xA 0xB) ∧ decode 0x8AB5 = .ok (.subVxVy 0xA 0xB) ∧
    decode 0x8AB6 = .ok (.shrVxVy 0xA 0xB) ∧ decode 0x8AB7 = .ok (.subnVxVy 0xA 0xB) ∧
    decode 0x8ABE = .ok (.shlVxVy 0xA 0xB) := by decide

theorem test_decode_index_and_io :
    decode 0xA123 = .ok (.ldINnn 0x123) ∧ decode 0xC1FF = .ok (.rndVxNn 1 0xFF) ∧
    decode 0xD125 = .ok (.drwVxVyN 1 2 5) ∧ decode 0xE19E = .ok (.skpVx 1) ∧ decode 0xE1A1 = .ok (.sknpVx 1) := by decide

theorem test_decode_family_f :
    decode 0xF107 = .ok (.ldVxDt 1) ∧ decode 0xF10A = .ok (.ldVxK 1) ∧ decode 0xF115 = .ok (.ldDtVx 1) ∧
    decode 0xF118 = .ok (.ldStVx 1) ∧ decode 0xF11E = .ok (.addIVx 1) ∧ decode 0xF129 = .ok (.ldFVx 1) ∧
    decode 0xF133 = .ok (.ldBVx 1) ∧ decode 0xF155 = .ok (.ldMemVx 1) ∧ decode 0xF165 = .ok (.ldVxMem 1) := by decide

/-- Every word of the list is refused by its own name. -/
def allIllegal (l : List Word) : Bool := l.all fun w => decode w == .error (.illegalOpcode w)

theorem test_decode_illegal_family_0 :
    allIllegal [0x0001, 0x00E1, 0x00FF, 0x0123, 0x0FFF, 0x00EF] = true := by decide

theorem test_decode_illegal_families_5_and_9 :
    allIllegal [0x5AB1, 0x5ABF, 0x5001, 0x9AB1, 0x9ABE] = true := by decide

theorem test_decode_illegal_family_8 :
    allIllegal [0x8AB8, 0x8AB9, 0x8ABA, 0x8ABB, 0x8ABC, 0x8ABD, 0x8ABF] = true := by
  decide

theorem test_decode_illegal_family_e :
    allIllegal [0xE19F, 0xE100, 0xE1A0, 0xE1FF] = true := by decide

theorem test_decode_illegal_family_f :
    allIllegal [0xF100, 0xF106, 0xF108, 0xF10B, 0xF11F, 0xF130, 0xF156, 0xF175, 0xF185, 0xF1FF] = true := by decide

/-- Bits 15 to 12 are op, 11 to 8 x, 7 to 4 y (R72): the word of the table is the word of memory (R70). -/
theorem test_decodeTableWord : decodeTableWord 16 0x8AB6 = some (.shrVxVy 0xA 0xB) := by decide

theorem test_decodeTableWord_illegal : decodeTableWord 16 0x8AB8 = none := by decide

theorem test_decodeBytes_big_endian : decodeBytes [0x12, 0x34, 0x56] = .ok (.jpNnn 0x234, [0x56]) := by decide

theorem test_decodeBytes_truncated : decodeBytes [0x12] = .error .truncated := by decide

/-! ## Well-formedness: every check refuses an ill-formed term -/

theorem test_wellFormed_word_illegal :
    legalWord 0x0FFF = false ∧ legalWord 0x5AB1 = false ∧ legalWord 0x8ABF = false ∧ legalWord 0x9ABE = false ∧
    legalWord 0xE1A0 = false ∧ legalWord 0xF1FF = false := by decide

theorem test_wellFormed_word_legal :
    legalWord 0x0000 = true ∧ legalWord 0x8ABE = true ∧ legalWord 0xD120 = true ∧ legalWord 0xFF65 = true := by decide

/-- The longest image has 3584 bytes (R62 (c)). -/
theorem test_wellFormed_image_longest : imageWellFormed (List.replicate 3584 0) = true := by
  rw [imageWellFormed, List.length_replicate]
  rfl

theorem test_wellFormed_image_too_long : imageWellFormed (List.replicate 3585 0) = false := by
  rw [imageWellFormed, List.length_replicate]
  rfl

/-- A row that is not in the map, here the machine-code call 0nnn, is refused (R80). -/
theorem test_wellFormed_row_unknown : opcodeTable.contains ⟨"SYS_nnn", 0xF000, 0x0000⟩ = false := by decide

theorem test_wellFormed_instr : (Instr.shlVxVy 15 15).wellFormed = true := by decide

/-! ## Control transfer (B2) -/

/-- B2.1. -/
theorem test_nop : (after State.reset 0x0000).map (fun t => t.pc) = some 0x202 := by decide

/-- A10, B2.5: the address pushed is that of the call. -/
theorem test_call : (after State.reset 0x2ABC).map (fun t => (t.pc, t.sp, t.stack[0])) = some (0xABC, 1, 0x200) := by decide

/-- B2.7. -/
theorem test_call_overflow :
    (after { State.reset with sp := 16, pc := 0x300 } 0x2400).map (fun t => (faultOf t, t.sp)) =
      some ((true, 4, 0x300, 0x300), 16) := by decide

/-- B2.9. -/
theorem test_ret :
    (after { State.reset with sp := 2, pc := 0x300, stack := (State.reset.stack.set 0 0x222).set 1 0x456 } 0x00EE).map
      (fun t => (t.pc, t.sp, t.stack[1])) = some (0x456, 1, 0x456) := by decide

/-- B2.8. -/
theorem test_ret_underflow :
    (after State.reset 0x00EE).map (fun t => (faultOf t, t.sp)) = some ((true, 3, 0x200, 0x200), 0) := by decide

/-- A10. -/
theorem test_jp : (after State.reset 0x1ABC).map (fun t => t.pc) = some 0xABC := by decide

/-- B2.10. -/
theorem test_jp_v0_large : (after (regs [(0, 0xFF)]) 0xBFFF).map (fun t => t.pc) = some 0x10FE := by decide

/-- B2.12: the 3 is part of the address. -/
theorem test_jp_v0_x_ignored : (after (regs [(3, 0x55)]) 0xB300).map (fun t => t.pc) = some 0x300 := by decide

/-! ## Skips (B3) -/

/-- B3.1, B3.2. -/
theorem test_se_imm : (after (regs [(3, 0x2A)]) 0x332A).map (·.pc) = some 0x204 ∧
    (after (regs [(3, 0x2A)]) 0x332B).map (·.pc) = some 0x202 := by decide

/-- B3.3, B3.4. -/
theorem test_sne_imm : (after (regs [(3, 0x2A)]) 0x432A).map (·.pc) = some 0x202 ∧
    (after (regs [(3, 0x2A)]) 0x432B).map (·.pc) = some 0x204 := by decide

/-- B3.5, B3.6. -/
theorem test_se_reg : (after (regs [(1, 7), (2, 7)]) 0x5120).map (·.pc) = some 0x204 ∧
    (after (regs [(1, 7), (2, 8)]) 0x5120).map (·.pc) = some 0x202 := by decide

/-- B3.8, B3.9. -/
theorem test_sne_reg : (after State.reset 0x9330).map (·.pc) = some 0x202 ∧
    (after (regs [(1, 7), (2, 8)]) 0x9120).map (·.pc) = some 0x204 := by decide

/-! ## Immediates and ALU (B4, B5): V1, V2, VF -/

/-- B4.1. -/
theorem test_ld_imm : (after State.reset 0x6A7F).map (fun t => (t.getV 10, t.pc)) = some (0x7F, 0x202) := by decide

/-- A1, and B4.7: VF as the destination. -/
theorem test_add_imm :
    (after (regs [(1, 0xFE), (15, 1)]) 0x7105).map (fun t => (t.getV 1, t.getV 15)) = some (0x03, 0x01) ∧
    (after (regs [(15, 0xFF)]) 0x7F02).map (fun t => t.getV 15) = some 0x01 := by decide

/-- The three values of an ALU row. -/
def row (o : Option State) : Option (Byte × Byte × Byte × Word) :=
  o.map fun t => (t.getV 1, t.getV 2, t.getV 15, t.pc)

theorem test_ld_reg : row (after (regs [(1, 0x11), (2, 0x22)]) 0x8120) = some (0x22, 0x22, 0x00, 0x202) := by decide

theorem test_or : row (after (regs [(1, 0xF0), (2, 0x0F), (15, 1)]) 0x8121) = some (0xFF, 0x0F, 0x01, 0x202) := by decide

theorem test_and : row (after (regs [(1, 0xF0), (2, 0x3C), (15, 1)]) 0x8122) = some (0x30, 0x3C, 0x01, 0x202) := by decide

theorem test_xor : row (after (regs [(1, 0xF0), (2, 0x3C), (15, 1)]) 0x8123) = some (0xCC, 0x3C, 0x01, 0x202) := by decide

theorem test_xor_vf : row (after (regs [(1, 0x0F), (15, 0xFF)]) 0x8F13) = some (0x0F, 0x00, 0xF0, 0x202) := by decide

theorem test_add : row (after (regs [(1, 0xC8), (2, 0x64)]) 0x8124) = some (0x2C, 0x64, 0x01, 0x202) := by decide

theorem test_add_vf : row (after (regs [(1, 0x20), (15, 0x10)]) 0x8F14) = some (0x20, 0x00, 0x00, 0x202) := by decide

/-- A5. -/
theorem test_sub : row (after (regs [(1, 0x03), (2, 0x05)]) 0x8125) = some (0xFE, 0x05, 0x00, 0x202) := by decide

theorem test_sub_equal : row (after (regs [(1, 0x07), (2, 0x07)]) 0x8125) = some (0x00, 0x07, 0x01, 0x202) := by decide

theorem test_subn : row (after (regs [(1, 0x03), (2, 0x05)]) 0x8127) = some (0x02, 0x05, 0x01, 0x202) := by decide

theorem test_subn_vf : row (after (regs [(1, 0x02), (15, 0x09)]) 0x8F17) = some (0x02, 0x00, 0x00, 0x202) := by decide

theorem test_shr : row (after (regs [(1, 0x05), (2, 0xAA)]) 0x8126) = some (0x02, 0xAA, 0x01, 0x202) := by decide

theorem test_shr_vf : row (after (regs [(15, 0x03)]) 0x8F06) = some (0x00, 0x00, 0x01, 0x202) := by decide

theorem test_shl : row (after (regs [(1, 0x81), (2, 0xAA)]) 0x812E) = some (0x02, 0xAA, 0x01, 0x202) := by decide

theorem test_shl_vf : row (after (regs [(15, 0x7F)]) 0x8F0E) = some (0x00, 0x00, 0x00, 0x202) := by decide

/-! ## Index and memory (B6) -/

/-- B6.2. -/
theorem test_ld_i : (after State.reset 0xAFFF).map (fun t => (t.i, t.pc)) = some (0xFFF, 0x202) := by decide

/-- B6.4, B6.6. -/
theorem test_add_i :
    (after { regs [(2, 0x01)] with i := 0x0FFF } 0xF21E).map (fun t => (t.i, t.getV 15, t.pc)) = some (0x1000, 0, 0x202) ∧
    (after { regs [(2, 0xFF)] with i := 0xFFFF } 0xF21E).map (·.i) = some 0x00FE := by decide

/-- B6.8 without the choice of FontAddr made there: I is what the open parameter gives. -/
theorem test_ld_f : (after (regs [(0, 0x1A)]) 0xF029).map (fun t => (t.i, t.pc)) = some (Config.fontAddr 0x1A, 0x202) := by
  rfl

/-- A7. -/
theorem test_bcd :
    (after { regs [(5, 0x9D)] with i := 0x300 } 0xF533).map (fun t => (bytesAt t [0x300, 0x301, 0x302], t.i, t.pc)) =
      some ([1, 5, 7], 0x300, 0x202) := by decide

/-- B6.13. -/
theorem test_bcd_out_of_range :
    (after { regs [(5, 0x9D)] with i := 0xFFE } 0xF533).map (fun t => (faultOf t, bytesAt t [0xFFE, 0xFFF])) =
      some ((true, 1, 0x1000, 0x200), [0, 0]) := by decide

/-- B6.18. -/
theorem test_store :
    (after { ramp with i := 0xFF0 } 0xFF55).map (fun t => (bytesAt t [0xFEF, 0xFF0, 0xFFF], t.i, t.pc)) =
      some ([0x00, 0x10, 0x1F], 0xFF0, 0x202) := by decide

/-- B6.19. -/
theorem test_store_out_of_range :
    (after { ramp with i := 0xFF1 } 0xFF55).map (fun t => (faultOf t, bytesAt t [0xFF1, 0xFFF])) =
      some ((true, 1, 0x1000, 0x200), [0, 0]) := by decide

/-- B6.21. -/
theorem test_load :
    (after { regs [(2, 0x77)] with i := 0x400, mem := [(0x400, 0xAA), (0x401, 0xBB), (0x402, 0xCC)] } 0xF165).map
      (fun t => (t.getV 0, t.getV 1, t.getV 2, t.i, t.pc)) = some (0xAA, 0xBB, 0x77, 0x400, 0x202) := by decide

/-- B6.23: V0 is not loaded. -/
theorem test_load_out_of_range :
    (after { regs [(0, 0x55), (1, 0x66)] with i := 0xFFF } 0xF165).map (fun t => (faultOf t, t.getV 0, t.getV 1)) =
      some ((true, 1, 0x1000, 0x200), 0x55, 0x66) := by decide

/-! ## Timers (B7) -/

/-- B7.1. -/
theorem test_set_dt : (after (regs [(4, 0x3C)]) 0xF415).map (fun t => (t.dt, t.st, t.pc)) = some (0x3C, 0, 0x202) := by decide

/-- B7.2. -/
theorem test_set_st : (after (regs [(4, 0x05)]) 0xF418).map (fun t => (t.dt, t.st, t.speaker, t.pc)) =
    some (0, 0x05, true, 0x202) := by decide

/-- B7.3. -/
theorem test_read_dt :
    (after { State.reset with dt := 0x3C } 0xF407).map (fun t => (t.getV 4, t.dt, t.pc)) = some (0x3C, 0x3C, 0x202) := by
  decide

/-- B7.4 and B7.5. -/
theorem test_tick :
    (stepped { State.reset with dt := 2, st := 1, env := { Env.quiet with script := [.tick] } }).map
      (fun t => (t.dt, t.st, t.pc)) = some (1, 0, 0x200) ∧
    (stepped { State.reset with dt := 1, env := { Env.quiet with script := [.tick] } }).map
      (fun t => (t.dt, t.st)) = some (0, 0) := by decide

/-! ## Collaborators (B8), the answers scripted -/

/-- B8.1. -/
theorem test_cls :
    (after (regs [(15, 1)]) 0x00E0).map (fun t => (t.env.requests, t.getV 15, t.pc)) = some ([.displayClear], 1, 0x202) := by
  decide

/-- B8.2. -/
theorem test_rnd :
    (after { State.reset with env := { Env.quiet with randomBytes := [0xB7] } } 0xC30F).map
      (fun t => (t.getV 3, t.env.requests, t.pc)) = some (0x07, [.randomByte], 0x202) := by decide

/-- B8.6. -/
theorem test_drw :
    (after { regs [(1, 0x0A), (2, 0x05), (15, 1)] with
      i := 0x300, mem := [(0x300, 0xF0), (0x301, 0x90)], env := { Env.quiet with collisions := [true] } } 0xD122).map
      (fun t => (t.getV 15, t.i, t.env.requests, t.pc)) =
      some (1, 0x300, [.displayDraw 0x0A 0x05 [0xF0, 0x90]], 0x202) := by decide

/-- B8.10: no request. -/
theorem test_drw_out_of_range :
    (after { regs [(15, 1)] with i := 0xFFF } 0xD122).map (fun t => (faultOf t, t.env.requests, t.getV 15)) =
      some ((true, 1, 0x1000, 0x200), [], 1) := by decide

/-- B8.13, B8.14. -/
theorem test_skp :
    (after { regs [(2, 5)] with env := { Env.quiet with keyStates := [true] } } 0xE29E).map
      (fun t => (t.pc, t.env.requests)) = some (0x204, [.keyDown 5]) ∧
    (after { regs [(2, 5)] with env := { Env.quiet with keyStates := [false] } } 0xE29E).map (·.pc) = some 0x202 := by decide

/-- B8.15, B8.16. -/
theorem test_sknp :
    (after { regs [(2, 5)] with env := { Env.quiet with keyStates := [true] } } 0xE2A1).map (·.pc) = some 0x202 ∧
    (after { regs [(2, 5)] with env := { Env.quiet with keyStates := [false] } } 0xE2A1).map (·.pc) = some 0x204 := by decide

/-- B8.18. -/
theorem test_key_wait_hold :
    (after { State.reset with env := { Env.quiet with keyPresses := [none] } } 0xF30A).map (fun t => (t.getV 3, t.pc)) =
      some (0, 0x200) := by decide

/-- B8.19. -/
theorem test_key_wait_key :
    (after { regs [(3, 0xFF)] with env := { Env.quiet with keyPresses := [some 0xB] } } 0xF30A).map
      (fun t => (t.getV 3, t.pc)) = some (0x0B, 0x202) := by decide

/-! ## Fetch, faults, host and loader (B9) -/

/-- B9.3. -/
theorem test_fetch_second_byte :
    (stepped { State.reset with pc := 0xFFF, mem := [(0xFFF, 0x12)] }).map faultOf = some (true, 1, 0x1000, 0xFFF) := by decide

/-- B9.5. -/
theorem test_fetch_odd_pc :
    (stepped { State.reset with pc := 0x201, mem := [(0x201, 0x60), (0x202, 0x2A)] }).map (fun t => (t.getV 0, t.pc)) =
      some (0x2A, 0x203) := by decide

/-- B9.6. -/
theorem test_illegal_word : (after State.reset 0xFFFF).map faultOf = some (true, 2, 0xFFFF, 0x200) := by decide

/-- B2.13, B9.7. -/
theorem test_halted_unchanged : stepped brim = some brim := by decide

/-- B9.7: only reset clears the latch, and memory is zero after it. -/
theorem test_reset_from_halted :
    stepped { brim with env := { Env.quiet with script := [.reset] } } = some State.reset := by decide

/-- R256: the loader writes one byte before the first cycle. -/
theorem test_load_byte : (stepped loading).map (fun t => t.mem) = some [(0x200, 0x12), (0xFFF, 0xFF)] := by decide

/-- A write of 0 takes the cell out, so equal memories are equal lists. -/
theorem test_write_zero : Memory.writeByte [(0x200, 0x12), (0x201, 0x34)] 0x200 0 = [(0x201, 0x34)] := by decide

/-- The host's placement of a word runs that word even from a halted state with an unreachable pc. -/
theorem test_withFetchWord : (after brim 0x6A7F).map (fun t => (t.getV 10, t.pc, t.halted)) = some (0x7F, 0x202, false) := by
  decide

/-! ## Witnesses: each statement's hypotheses hold together of something -/

theorem witness_DecodeOfEncodeIsTheInstruction : (Instr.drwVxVyN 15 15 0xF).wellFormed = true := by decide

theorem witness_EncodeOfDecodeIsTheWord : decode 0xFF65 = .ok (.ldVxMem 15) := by decide

theorem witness_DecoderFollowsTheOpcodeMap :
    (⟨"LD_Vx___I", 0xF0FF, 0xF065⟩ : Row) ∈ opcodeTable ∧ (0xFF65 : Word) &&& 0xF0FF = 0xF065 ∧
    ∀ r ∈ opcodeTable, (0xFFFF : Word) &&& r.mask ≠ r.fixed := by decide

theorem witness_MemoryReadGivesTheLastWrite : 4096 ≤ 4096 ∧ 4095 < 4096 ∧ Memory.wf [(0x200, 0x12)] := by decide

theorem witness_FetchReadsTwoBytesHighFirst :
    ({ State.reset with pc := 0xFFE } : State).pc.toNat + 1 < 4096 ∧
    ({ State.reset with pc := 0xFFF } : State).pc.toNat = 4095 ∧
    4096 ≤ ({ State.reset with pc := 0x1000 } : State).pc.toNat := by decide

theorem witness_StepRunsTheDecodedInstruction :
    let s : State := { State.reset with pc := 0xFFE, mem := [(0xFFE, 0x6A), (0xFFF, 0x7F)] }
    s.nextMove = .cycle ∧ s.halted = false ∧ s.pc.toNat + 1 < 4096 ∧
    decodeBytes [s.mem.readByte s.pc.toNat, s.mem.readByte (s.pc.toNat + 1)] = .ok (.ldVxNn 0xA 0x7F, []) := by decide

theorem witness_IllegalWordFaultsAndChangesNothingElse :
    let s : State := { State.reset with pc := 0xFFE, mem := [(0xFFE, 0x5A), (0xFFF, 0xB1)] }
    s.halted = false ∧ s.pc.toNat + 1 < 4096 ∧ legalWord (wordAtPc s) = false := by decide

theorem witness_FetchOutOfRangeFaults :
    let s : State := { State.reset with pc := 0x1000 }
    let q : State := { State.reset with pc := 0xFFF }
    s.halted = false ∧ 4096 ≤ s.pc.toNat ∧ q.halted = false ∧ q.pc.toNat = 4095 := by decide

theorem witness_NopAdvancesAndChangesNothingElse :
    let s : State := { State.reset with pc := 0xFFE }
    opField 0x0FFF = 0 ∧ s.mem.readByte s.pc.toNat = 0 ∧ s.mem.readByte (s.pc.toNat + 1) = 0 ∧
    s.pc.toNat + 1 < 4096 := by decide

theorem witness_JumpSetsPcToTheTarget :
    opField 0x1FFF = 0x1 ∧ State.reset.pc.toNat = (0x200 : Imm12).toNat ∧
    ({ State.reset with pc := 0xFFF } : State).pc = 0xFFF := by decide

theorem witness_CallPushesItsOwnAddress :
    opField 0x2FFF = 0x2 ∧ State.reset.sp.toNat = (0 : Fin 16).val ∧
    ({ State.reset with sp := 15 } : State).sp.toNat = (15 : Fin 16).val ∧
    16 ≤ ({ State.reset with sp := 16 } : State).sp.toNat := by decide

theorem witness_ReturnPopsTheNewestSlot :
    ({ State.reset with sp := 1 } : State).sp.toNat = (0 : Fin 16).val + 1 ∧
    ({ State.reset with sp := 16 } : State).sp.toNat = (15 : Fin 16).val + 1 ∧ State.reset.sp.toNat = 0 := by decide

theorem witness_ReturnWithoutASlotStops : 16 < ({ State.reset with sp := 17 } : State).sp.toNat := by decide

theorem witness_IndexedJumpAddsV0 :
    opField 0xBFFF = 0xB ∧ ({ State.reset with pc := 0x1000 } : State).pc = 0x1000 := by decide

theorem witness_ReturnLandsOnTheCall :
    let s : State := { State.reset with sp := 15 }
    s.sp.toNat < 16 ∧ ∃ t, exec (.callNnn 0x400) s = .next t ∧
      ∃ u : State, u.v ≠ t.v ∧ u.stack = t.stack ∧ u.sp = t.sp :=
  ⟨by decide, _, rfl, { ramp with stack := State.reset.stack.set 15 0x200, sp := 16 }, by decide, by decide, by decide⟩

theorem witness_RegisterSkipsMoveFourOrTwo :
    opField 0x3FFF = 0x3 ∧ opField 0x4FFF = 0x4 ∧ opField 0x5FFF = 0x5 ∧ opField 0x9FFF = 0x9 := by decide

theorem witness_KeySkipsFollowTheAnswer :
    ({ Env.quiet with keyStates := [true] } : Env).keyStates = true :: [] := by decide

theorem witness_LoadImmediateSetsTheRegister : opField 0x6FFF = 0x6 ∧ (14 : Reg) ≠ 15 := by decide

theorem witness_AddImmediateWrapsWithoutFlag : opField 0x7FFF = 0x7 ∧ (14 : Reg) ≠ 15 := by decide

theorem witness_CopyRegisterSetsVx : opField 0x8FF0 = 0x8 ∧ nField 0x8FF0 = 0x0 := by decide

theorem witness_LogicWorksBitByBit :
    opField 0x8FF1 = 0x8 ∧ nField 0x8FF1 = 0x1 ∧ nField 0x8FF2 = 0x2 ∧ nField 0x8FF3 = 0x3 ∧
    (14 : Reg) ≠ 15 ∧ 7 < 8 := by decide

theorem witness_AddSetsTheCarry : opField 0x8FF4 = 0x8 ∧ nField 0x8FF4 = 0x4 := by decide

theorem witness_SubtractSetsNoBorrow :
    opField 0x8FF5 = 0x8 ∧ nField 0x8FF5 = 0x5 ∧ opField 0x8FF7 = 0x8 ∧ nField 0x8FF7 = 0x7 := by decide

theorem witness_ShiftsMoveOneBitIntoVF :
    opField 0x8FF6 = 0x8 ∧ nField 0x8FF6 = 0x6 ∧ opField 0x8FFE = 0x8 ∧ nField 0x8FFE = 0xE := by decide

theorem witness_LoadIndexSetsI : opField 0xAFFF = 0xA := by decide

theorem witness_AddIndexWrapsAtSixteenBits : opField 0xFF1E = 0xF ∧ nnField 0xFF1E = 0x1E := by decide

theorem witness_FontAddressDependsOnVxAlone :
    let s : State := regs [(0, 0x1A)]
    let q : State := regs [(15, 0x1A)]
    opField 0xFF29 = 0xF ∧ nnField 0xFF29 = 0x29 ∧ s.getV 0 = q.getV 15 ∧ (∃ t, exec (.ldFVx 0) s = .next t) ∧ ∃ u, exec (.ldFVx 15) q = .next u :=
  ⟨by decide, by decide, by decide, ⟨_, rfl⟩, ⟨_, rfl⟩⟩

theorem witness_DecimalDigitsAreStored :
    opField 0xFF33 = 0xF ∧ nnField 0xFF33 = 0x33 ∧
    ({ State.reset with i := 0xFFD } : State).i.toNat + 2 < 4096 ∧
    4096 ≤ ({ State.reset with i := 0xFFE } : State).i.toNat + 2 := by decide

theorem witness_StoreWritesV0ToVx :
    opField 0xFF55 = 0xF ∧ nnField 0xFF55 = 0x55 ∧
    ({ State.reset with i := 0xFF0 } : State).i.toNat + (15 : Reg).val < 4096 ∧
    4096 ≤ ({ State.reset with i := 0xFF1 } : State).i.toNat + (15 : Reg).val := by decide

theorem witness_LoadFillsV0ToVx :
    opField 0xFF65 = 0xF ∧ nnField 0xFF65 = 0x65 ∧
    ({ State.reset with i := 0xFFF } : State).i.toNat + (0 : Reg).val < 4096 ∧
    4096 ≤ ({ State.reset with i := 0x1000 } : State).i.toNat + (0 : Reg).val := by decide

theorem witness_StoreThenLoadGivesTheRegistersBack :
    ({ State.reset with i := 0xFF0 } : State).i.toNat + (15 : Reg).val < 4096 := by decide

theorem witness_StoredBytesAreFetchedNext :
    ({ State.reset with i := 0xFF0 } : State).i.toNat + (15 : Reg).val < 4096 ∧
    (15 : Reg).val = (14 : Reg).val + 1 ∧ (15 : Reg) ≤ 15 := by decide

theorem witness_ReadDelayTimerCopiesDT : opField 0xFF07 = 0xF ∧ nnField 0xFF07 = 0x07 := by decide

theorem witness_SetTimersCopiesVx :
    opField 0xFF15 = 0xF ∧ nnField 0xFF15 = 0x15 ∧ opField 0xFF18 = 0xF ∧ nnField 0xFF18 = 0x18 := by decide

theorem witness_NoInstructionReadsTheSoundTimer :
    (∀ x, Instr.ldVxDt 15 ≠ .ldStVx x) ∧ ∃ t, exec (.ldVxDt 15) ramp = .next t := ⟨by decide, _, rfl⟩

theorem witness_TickCountsBothTimersDown :
    ({ State.reset with dt := 1, env := { Env.quiet with script := [.tick] } } : State).nextMove = .tick := by decide

theorem witness_RandomByteIsMasked :
    opField 0xCFFF = 0xC ∧ (0x0F : Byte) &&& ~~~(0x0F : Byte) = 0 ∧ (0x00 : Byte) &&& ~~~(0x00 : Byte) = 0 ∧
    ({ Env.quiet with randomBytes := [0xB7] } : Env).randomBytes = 0xB7 :: [] := by decide

theorem witness_DrawSendsTheSpriteAndTakesTheCollision :
    opField 0xDFFF = 0xD ∧ (0 : Nibble).toNat = 0 ∧
    ({ State.reset with i := 0xFF1 } : State).i.toNat + (15 : Nibble).toNat ≤ 4096 ∧
    ({ Env.quiet with collisions := [true] } : Env).collisions = true :: [] ∧
    (15 : Nibble).toNat ≠ 0 ∧ 4096 < ({ State.reset with i := 0xFF2 } : State).i.toNat + (15 : Nibble).toNat := by decide

theorem witness_KeyWaitHoldsUntilAKeyComes :
    opField 0xFF0A = 0xF ∧ nnField 0xFF0A = 0x0A ∧
    ({ State.reset with env := { Env.quiet with keyPresses := [none] } } : State).keyWaitAnswer = none ∧
    ({ State.reset with env := { Env.quiet with keyPresses := [some 0xF] } } : State).keyWaitAnswer = some 0xF := by decide

theorem witness_AtMostOneRequestPerCycle : (∃ t, exec .nop ramp = .next t) ∧ ¬ asks .nop := ⟨⟨_, rfl⟩, id⟩

/-- One state twice, with the same answers scripted and two different records of the past. -/
theorem witness_NoHiddenStateOutsideTheCollaborators :
    let e : Env := { Env.quiet with
      randomBytes := [0xB7], collisions := [true], keyStates := [false], keyPresses := [some 0xF] }
    let s : State := { ramp with env := e }
    let q : State := { ramp with env := { e with started := true, draws := 3, requests := [.keyWait] } }
    ¬ asks (.addVxVy 1 2) ∧ s.SameCore q ∧ s.SameAnswers q ∧ (∃ t, exec (.addVxVy 1 2) s = .next t) ∧
    (∃ t, exec (.rndVxNn 1 0x0F) s = .next t) ∧ ∃ t, cycle s = .next t :=
  ⟨id, rfl, ⟨rfl, rfl, fun _ => rfl, fun _ _ _ => rfl⟩, ⟨_, rfl⟩, ⟨_, rfl⟩, ⟨_, rfl⟩⟩

theorem witness_FaultsArePrecise :
    State.reset.halted = false ∧ ∃ t, exec .ret State.reset = .next t ∧ t.halted = true := ⟨rfl, _, rfl, rfl⟩

theorem witness_OnlySixInstructionsFault :
    let s : State := { ramp with i := 0xFF1, sp := 16 }
    s.halted = false ∧ (∃ t, exec (.callNnn 0x400) s = .next t ∧ t.halted = true) ∧
    ∃ t, exec (.ldMemVx 15) s = .next t ∧ t.halted = true := ⟨rfl, ⟨_, rfl, rfl⟩, ⟨_, rfl, rfl⟩⟩

theorem witness_HaltedUntilReset :
    brim.halted = true ∧ brim.nextMove ≠ .reset ∧ ∃ t, step brim = .next t := ⟨rfl, by decide, _, rfl⟩

theorem witness_ResetClearsEverything :
    ({ brim with env := { Env.quiet with script := [.reset] } } : State).nextMove = .reset := by decide

theorem witness_LoaderPlacesTheImage :
    imageWellFormed [0x12, 0x00] = true ∧ Env.quiet.started = false ∧
    ({ Env.quiet with script := [.load 0x200 0x12, .load 0x201 0x00, .tick] } : Env).script =
      loaderMoves 0x200 [0x12, 0x00] ++ [.tick] := by decide

theorem witness_LoaderOutsideItsWindowIsRefused :
    let s : State := { State.reset with env := { Env.quiet with script := [.load 0x200 0x12], started := true } }
    let q : State := { State.reset with env := { Env.quiet with script := [.load 4096 0x12] } }
    s.nextMove = .load 0x200 0x12 ∧ s.env.started = true ∧ q.nextMove = .load 4096 0x12 ∧ q.env.started = false ∧
    4096 ≤ 4096 := by decide

theorem witness_RunningOffTheProgramFaultsAtTheEnd :
    State.reset.halted = false ∧ State.reset.env.script = [] ∧ State.reset.pc.toNat + 2 * 1792 = 0x1000 ∧ 0 < 1792 ∧
    (∀ a, State.reset.pc.toNat ≤ a → State.reset.mem.readByte a = 0) ∧
    ({ State.reset with pc := 0xFFE } : State).pc.toNat + 2 * 1 = 0x1000 :=
  ⟨by decide, by decide, by decide, by decide, fun _ _ => rfl, by decide⟩

theorem witness_SelfJumpHoldsTheState :
    ({ State.reset with pc := 0xFFE, mem := [(0xFFE, 0x1F), (0xFFF, 0xFE)] } : State).atSelfJump = true := by decide

theorem witness_OnlyIndexInstructionsChangeI :
    ∃ t, exec (.ldINnn 0xFFF) ramp = .next t ∧ t.i ≠ ramp.i := ⟨_, rfl, by decide⟩

theorem witness_OnlyCallAndReturnChangeTheStack :
    (∃ t, exec (.callNnn 0x400) ramp = .next t ∧ t.sp ≠ ramp.sp) ∧
    ∃ t, exec .ret { ramp with sp := 16 } = .next t ∧ t.sp ≠ 16 := ⟨⟨_, rfl, by decide⟩, ⟨_, rfl, by decide⟩⟩

theorem witness_OnlyTimerWritesChangeTheTimers :
    (∃ t, exec (.ldDtVx 1) ramp = .next t ∧ t.dt ≠ ramp.dt) ∧
    ∃ t, exec (.ldStVx 1) ramp = .next t ∧ t.st ≠ ramp.st := ⟨⟨_, rfl, by decide⟩, ⟨_, rfl, by decide⟩⟩

theorem witness_OnlyStoresChangeMemory :
    (∃ t, exec (.ldMemVx 15) ramp = .next t ∧ t.mem ≠ ramp.mem) ∧ ramp.i.toNat + 16 ≤ 16 :=
  ⟨⟨_, rfl, by decide⟩, by decide⟩

theorem witness_RegistersChangeOnlyAsNamed :
    ∃ t, exec (.addVxVy 1 2) ramp = .next t ∧ t.getV 1 ≠ ramp.getV 1 ∧ writesFlag (.addVxVy 1 2) ∧
      ramp.halted = false ∧ t.halted = false := ⟨_, rfl, by decide, trivial, rfl, rfl⟩

theorem witness_PcMovesAsTheRuleSays :
    (∃ t, exec (.seVxVy 1 2) ramp = .next t) ∧ ¬ setsPc (.seVxVy 1 2) := ⟨⟨_, rfl⟩, id⟩

theorem witness_StepKeepsTheInvariant : brim.Inv ∧ ∃ t, step brim = .next t :=
  ⟨⟨by decide, by decide, by decide, by decide, by decide, by decide, by decide⟩, _, rfl⟩

theorem witness_StepAlwaysGoesOn :
    loading.Inv ∧ ∀ a b, loading.nextMove = .load a b → loading.env.started = false ∧ a < 4096 := by
  refine ⟨⟨by decide, by decide, by decide, by decide, by decide, by decide, by decide⟩, fun a b h => ⟨rfl, ?_⟩⟩
  cases h
  decide

end Sys2Proof.Tests
end

/-! # Proofs of the statements about the state of CORE (10_state.md)

What an instruction can leave behind is said once, as a relation with one constructor per shape of effect
(`Leaves`, tied to the model by `leaves_of_exec`); the whole-machine rules and the invariant are read off it. The two
statements that compare runs rest on `exec_with_st_env`: an instruction that asks nobody carries ST and the world around
CORE through. -/

namespace Sys2Proof.Machine

open Sys2Proof.Claims

/-! ## The shapes of what an instruction leaves -/

/-- What an instruction run in `s` can leave. Where a collaborator is asked, the world around CORE becomes some `e`. -/
inductive Leaves (s : State) : Instr → State → Prop
  /-- A fault is raised (R201). -/
  | fault (i : Instr) (c : Trap) (hinfo : c.info < 2 ^ 17) : Leaves s i (s.raise c)
  /-- 00EE pops the newest slot (R101). -/
  | ret (j : Fin 16) (hsp : s.sp.toNat = j.val + 1) : Leaves s .ret { s with sp := s.sp - 1, pc := s.stack[j] }
  /-- 2nnn pushes its own address (R103). -/
  | call (nnn : Imm12) (hsp : s.sp.toNat < Config.stackDepth) : Leaves s (.callNnn nnn)
      { s with stack := s.stack.setIfInBounds s.sp.toNat s.pc, sp := s.sp + 1, pc := zextImm nnn }
  /-- A jump writes pc alone (R102, R104). -/
  | jump (i : Instr) (a : Word) (hi : setsPc i) (ha : a.toNat < 0x10FF) : Leaves s i (s.setPc a)
  /-- 0000 and 00E0 only move on (R100, R170). -/
  | pass (i : Instr) (e : Env) (hi : i = .nop ∨ i = .cls) : Leaves s i ({ s with env := e } : State).advance
  /-- A skip moves on by one or two instructions (R114). -/
  | skip (i : Instr) (e : Env) (c : Bool) (hi : isSkip i) : Leaves s i (({ s with env := e } : State).skipIf c)
  /-- A named destination takes a value, and no flag is written. -/
  | result (i : Instr) (e : Env) (x : Reg) (r : Byte) (hi : hasDest i x) (hf : ¬ writesFlag i) :
      Leaves s i (({ s with env := e } : State).writeResult x r)
  /-- A named destination takes a value, then VF the flag (R139). -/
  | resultFlag (i : Instr) (x : Reg) (r : Byte) (f : Bool) (hi : hasDest i x) (hf : writesFlag i) :
      Leaves s i (s.writeResultFlag x r f)
  /-- Dxyn writes the collision to VF (R172). -/
  | collision (x y : Reg) (n : Nibble) (e : Env) (f : Bool) :
      Leaves s (.drwVxVyN x y n) (({ s with env := e } : State).writeResult vf (flagByte f))
  /-- Fx0A holds while no key comes (R175). -/
  | hold (x : Reg) (e : Env) (hk : s.keyWaitAnswer = none) : Leaves s (.ldVxK x) { s with env := e }
  /-- I takes a value (R150 to R152). -/
  | index (i : Instr) (a : Word) (hi : (∃ nnn, i = .ldINnn nnn) ∨ (∃ x, i = .addIVx x) ∨ (∃ x, i = .ldFVx x)) :
      Leaves s i (s.setI a).advance
  /-- DT takes a register (R161). -/
  | delay (x : Reg) : Leaves s (.ldDtVx x) (s.setDt (s.getV x)).advance
  /-- ST takes a register (R162). -/
  | sound (x : Reg) : Leaves s (.ldStVx x) (s.setSt (s.getV x)).advance
  /-- Bytes are stored, within the 4096 (R153, R154). -/
  | store (i : Instr) (m : Memory) (hi : (∃ x, i = .ldBVx x) ∨ (∃ x, i = .ldMemVx x)) (hm : s.mem.wf → m.wf) :
      Leaves s i (s.setMem m).advance
  /-- Registers V0 to Vx are loaded, those above x stay (R155). -/
  | load (x : Reg) (v : Vector Byte 16) (hv : ∀ r : Reg, ¬ r ≤ x → v[r] = s.getV r) :
      Leaves s (.ldVxMem x) ({ s with v := v } : State).advance

theorem memRange_info_lt (a : Word) : (Trap.memRange (max a.toNat Config.memSize)).info < 2 ^ 17 := by
  have := a.isLt
  simp only [Trap.info, Config.memSize]
  omega

theorem zextImm_toNat (nnn : Imm12) : (zextImm nnn).toNat = nnn.toNat := by
  have := nnn.isLt
  simp only [zextImm, BitVec.toNat_setWidth]
  omega

theorem State.indexedTarget_toNat (s : State) (nnn : Imm12) :
    (s.indexedTarget nnn).toNat = nnn.toNat + (s.getV 0).toNat := by
  have := nnn.isLt
  have := (s.getV 0).isLt
  simp only [State.indexedTarget, zextByte, BitVec.toNat_add, zextImm_toNat, BitVec.toNat_setWidth]
  omega

/-- The jumps land below 0x10FF: nnn is at most 0xFFF and V0 at most 0xFF (R27). -/
theorem State.indexedTarget_lt (s : State) (nnn : Imm12) : (s.indexedTarget nnn).toNat < 0x10FF := by
  have := nnn.isLt
  have := (s.getV 0).isLt
  rw [s.indexedTarget_toNat]
  omega

theorem zextImm_lt (nnn : Imm12) : (zextImm nnn).toNat < 0x10FF := by
  have := nnn.isLt
  rw [zextImm_toNat]
  omega

/-- Loading `x + 1` bytes keeps the registers above x. -/
theorem State.setVBlock_above (s : State) (x : Reg) (bytes : List Byte) (hl : bytes.length = blockLength x) (r : Reg)
    (hr : ¬ r ≤ x) : (s.setVBlock bytes).v[r] = s.getV r := by
  have hlen : bytes.length ≤ r.val := by rw [hl]; exact Nat.succ_le_of_lt (not_le.mp hr)
  exact (s.getV_setVBlock bytes r).trans (by rw [List.getElem?_eq_none hlen]; rfl)

/-- Fx0A leaves the held state or the key in its destination. -/
theorem leaves_ldVxK (x : Reg) (s : State) : Leaves s (.ldVxK x) (s.askKeyWait.takeKey x s.keyWaitAnswer) := by
  rcases s.askKeyWait.takeKey_cases x s.keyWaitAnswer with ⟨hk, ht⟩ | ⟨k, -, ht⟩
  · rw [ht]; exact .hold x _ hk
  · rw [ht]; exact .result _ _ x _ rfl id

/-- The instructions with a single outcome leave one of the shapes. -/
theorem leaves_of_exec_of_not_mayStop (i : Instr) (s t : State) (hi : ¬ mayStop i) (h : exec i s = .next t) :
    Leaves s i t := by
  cases i
  case ret | callNnn | ldBVx | ldMemVx | ldVxMem | drwVxVyN => exact absurd trivial hi
  all_goals cases h
  case nop => exact .pass _ s.env (.inl rfl)
  case cls => exact .pass _ _ (.inr rfl)
  case jpNnn nnn => exact .jump _ _ trivial (zextImm_lt nnn)
  case jpV0Nnn nnn => exact .jump _ _ trivial (s.indexedTarget_lt nnn)
  case seVxNn | sneVxNn | seVxVy | sneVxVy => exact .skip _ s.env _ trivial
  case skpVx | sknpVx => exact .skip _ _ _ trivial
  case ldVxNn | addVxNn | ldVxVy | orVxVy | andVxVy | xorVxVy | ldVxDt => exact .result _ s.env _ _ rfl id
  case rndVxNn => exact .result _ _ _ _ rfl id
  case addVxVy | subVxVy | subnVxVy | shrVxVy | shlVxVy => exact .resultFlag _ _ _ _ rfl trivial
  case ldINnn nnn => exact .index _ _ (.inl ⟨nnn, rfl⟩)
  case addIVx x => exact .index _ _ (.inr (.inl ⟨x, rfl⟩))
  case ldFVx x => exact .index _ _ (.inr (.inr ⟨x, rfl⟩))
  case ldVxK x => exact leaves_ldVxK x s
  case ldDtVx x => exact .delay x
  case ldStVx x => exact .sound x

/-- Every next state of an instruction is of one of the shapes. -/
theorem leaves_of_exec (i : Instr) (s t : State) (h : exec i s = .next t) : Leaves s i t := by
  have hpc : s.pc.toNat < 2 ^ 17 := by have := s.pc.isLt; omega
  revert i t
  apply exec_next_cases (fun i s t => Leaves s i t) s
  case ret_empty => exact fun _ => .fault _ _ hpc
  case ret_slot => exact fun j hj => .ret j hj
  case call_full => exact fun _ _ => .fault _ _ hpc
  case call_free => exact fun nnn hsp => .call nnn hsp
  case bcd_ok => exact fun x hx => .store _ _ (.inl ⟨x, rfl⟩) fun hm => Memory.wf_writeBlock _ _ _ hm hx
  case store_ok =>
    intro x hx
    rw [← s.vBlock_length x] at hx
    exact .store _ _ (.inr ⟨x, rfl⟩) fun hm => Memory.wf_writeBlock _ _ _ hm hx
  case load_ok => exact fun x _ => .load x _ (s.setVBlock_above x _ (Memory.readBlock_length _ _ _))
  case draw_ok => exact fun x y n _ => .collision x y n _ _
  case bcd_bad | store_bad | load_bad => exact fun _ _ => .fault _ _ (memRange_info_lt s.i)
  case draw_bad => exact fun _ _ _ _ => .fault _ _ (memRange_info_lt s.i)
  case others => exact fun i t hi h => leaves_of_exec_of_not_mayStop i s t hi h

/-! ## The invariant -/

theorem Trap.cause_ne_none (c : Trap) : c.cause ≠ .none := by
  cases c <;> exact nofun

/-- The invariant speaks of CORE alone. -/
theorem State.Inv.of_sameCore {s t : State} (h : s.Inv) (hc : s.SameCore t) : t.Inv := by
  obtain ⟨c, _⟩ := s
  obtain ⟨d, _⟩ := t
  obtain rfl : c = d := hc
  exact ⟨h.mem_wf, h.sp_le, h.pc_lt, h.stack_le, h.info_lt, h.halted_iff, h.info_zero⟩

/-- The invariant does not speak of the registers, I and the timers. -/
theorem State.Inv.with_data {s : State} (h : s.Inv) (v : Vector Byte 16) (i : Word) (dt st : Byte) (e : Env) :
    State.Inv { s with v := v, i := i, dt := dt, st := st, env := e } :=
  ⟨h.mem_wf, h.sp_le, h.pc_lt, h.stack_le, h.info_lt, h.halted_iff, h.info_zero⟩

theorem State.Inv.setPc {s : State} (h : s.Inv) (a : Word) (ha : a.toNat < 0x10FF) : (s.setPc a).Inv :=
  ⟨h.mem_wf, h.sp_le, ha, h.stack_le, h.info_lt, h.halted_iff, h.info_zero⟩

theorem State.Inv.setMem {s : State} (h : s.Inv) (m : Memory) (hm : m.wf) : (s.setMem m).Inv :=
  ⟨hm, h.sp_le, h.pc_lt, h.stack_le, h.info_lt, h.halted_iff, h.info_zero⟩

theorem State.Inv.raise {s : State} (h : s.Inv) (c : Trap) (hc : c.info < 2 ^ 17) : (s.raise c).Inv :=
  ⟨h.mem_wf, h.sp_le, h.pc_lt, h.stack_le, hc, iff_of_true rfl c.cause_ne_none, nofun⟩

/-- From a pc that a word can be fetched from, moving on stays below 0x10FF (R27). -/
theorem State.Inv.advance {s : State} (h : s.Inv) (hpc : s.pc.toNat + 1 < Config.memSize) : s.advance.Inv := by
  refine h.setPc _ ?_
  have h2 : Config.instrBytes.toNat = 2 := rfl
  rw [BitVec.toNat_add, h2]
  simp only [Config.memSize] at hpc
  omega

theorem State.Inv.skipIf {s : State} (h : s.Inv) (hpc : s.pc.toNat + 1 < Config.memSize) (c : Bool) :
    (s.skipIf c).Inv := by
  cases c with
  | false => exact h.advance hpc
  | true =>
    refine h.setPc _ ?_
    have h2 : Config.instrBytes.toNat = 2 := rfl
    rw [BitVec.toNat_add, BitVec.toNat_add, h2]
    simp only [Config.memSize] at hpc
    omega

/-- A return lands on a slot's word, at most 0xFFE. -/
theorem State.Inv.ret {s : State} (h : s.Inv) (j : Fin 16) (hsp : s.sp.toNat = j.val + 1) :
    State.Inv { s with sp := s.sp - 1, pc := s.stack[j] } := by
  have h0 : s.sp ≠ 0 := fun e => by simp [e] at hsp
  refine ⟨h.mem_wf, ?_, lt_of_le_of_lt (h.stack_le j) (by decide), h.stack_le, h.info_lt, h.halted_iff, h.info_zero⟩
  exact (sp_sub_one_toNat s.sp h0).trans_le ((Nat.sub_le _ _).trans h.sp_le)

theorem sp_add_one_toNat (b : Byte) (h : b.toNat < Config.stackDepth) : (b + 1).toNat = b.toNat + 1 := by
  have h1 : (1 : Byte).toNat = 1 := rfl
  rw [BitVec.toNat_add, h1]
  simp only [Config.stackDepth] at h
  omega

/-- A call puts its own address into a slot: a pc that a word was fetched from, so at most 0xFFE (R101). -/
theorem State.Inv.call {s : State} (h : s.Inv) (hpc : s.pc.toNat + 1 < Config.memSize) (nnn : Imm12)
    (hsp : s.sp.toNat < Config.stackDepth) :
    State.Inv { s with stack := s.stack.setIfInBounds s.sp.toNat s.pc, sp := s.sp + 1, pc := zextImm nnn } := by
  refine ⟨h.mem_wf, (sp_add_one_toNat s.sp hsp).trans_le hsp, zextImm_lt nnn, fun j => ?_, h.info_lt, h.halted_iff,
    h.info_zero⟩
  have hj := h.stack_le j
  simp only [Fin.getElem_fin, Vector.getElem_setIfInBounds, Config.memSize] at hpc hj ⊢
  split_ifs <;> omega

/-- An instruction that was fetched within the 4096 bytes keeps the invariant. -/
theorem exec_keeps_inv {i : Instr} {s t : State} (h : s.Inv) (hpc : s.pc.toNat + 1 < Config.memSize)
    (ht : exec i s = .next t) : t.Inv := by
  have hdata := h.with_data
  cases leaves_of_exec i s t ht with
  | fault _ c hc => exact h.raise c hc
  | ret j hsp => exact h.ret j hsp
  | call nnn hsp => exact h.call hpc nnn hsp
  | jump _ a _ ha => exact h.setPc a ha
  | pass _ e _ => exact (hdata s.v s.i s.dt s.st e).advance hpc
  | skip _ e c _ => exact (hdata s.v s.i s.dt s.st e).skipIf hpc c
  | result _ e x r _ _ => exact (hdata (s.v.set x r) s.i s.dt s.st e).advance hpc
  | resultFlag _ x r f _ _ => exact (hdata ((s.v.set x r).set vf (flagByte f)) s.i s.dt s.st s.env).advance hpc
  | collision _ _ _ e f => exact (hdata (s.v.set vf (flagByte f)) s.i s.dt s.st e).advance hpc
  | hold _ e _ => exact hdata s.v s.i s.dt s.st e
  | index _ a _ => exact (hdata s.v a s.dt s.st s.env).advance hpc
  | delay x => exact (hdata s.v s.i (s.getV x) s.st s.env).advance hpc
  | sound x => exact (hdata s.v s.i s.dt (s.getV x) s.env).advance hpc
  | store _ m _ hm => exact (h.setMem m (hm h.mem_wf)).advance hpc
  | load _ v _ => exact (hdata v s.i s.dt s.st s.env).advance hpc

theorem State.fetchDecode_error_info_lt (s : State) (c : Trap) (h : s.fetchDecode = .error c) : c.info < 2 ^ 17 := by
  rw [State.fetchDecode, State.fetch_eq] at h
  split_ifs at h with hpc
  · dsimp only at h
    split at h <;> cases h
    exact (BitVec.isLt _).trans (by decide)
  · cases h
    exact memRange_info_lt s.pc

theorem cycle_keeps_inv {s t : State} (h : s.Inv) (ht : cycle s = .next t) : t.Inv := by
  have hstart := h.of_sameCore s.markStarted_sameCore
  rcases cycle_cases s with ⟨-, e⟩ | ⟨i, -, hi, e⟩ | ⟨c, -, hc, e⟩ <;> rw [e] at ht
  · cases ht; exact h
  · exact exec_keeps_inv hstart (s.fetchDecode_ok i hi).1 ht
  · cases ht; exact hstart.raise c (s.fetchDecode_error_info_lt c hc)

theorem State.reset_inv : State.reset.Inv :=
  ⟨by decide, by decide, by decide, by decide, by decide, by decide, fun _ => rfl⟩

/-! ## What does not depend on the world around CORE -/

/-- The state with the same CORE in another world. -/
theorem State.SameCore.eq_with_env {s q : State} (h : s.SameCore q) : q = { s with env := q.env } := by
  obtain ⟨c, _⟩ := s
  obtain ⟨d, _⟩ := q
  obtain rfl : c = d := h
  rfl

theorem State.skipIf_with_st_env (s : State) (c : Bool) (b : Byte) (e : Env) :
    ({ s with st := b, env := e } : State).skipIf c = { s.skipIf c with st := b, env := e } := by
  cases c <;> rfl

theorem State.skipIf_with_st (s : State) (c : Bool) (b : Byte) :
    ({ s with st := b } : State).skipIf c = { s.skipIf c with st := b } := by
  cases c <;> rfl

theorem State.takeKey_with_st (s : State) (x : Reg) (k : Option Nibble) (b : Byte) :
    ({ s with st := b } : State).takeKey x k = { s.takeKey x k with st := b } := by
  cases k <;> rfl

/-- An instruction that asks nobody and does not set ST works alike whatever ST and the world around CORE hold, and
carries both through. -/
theorem exec_with_st_env (b : Byte) (e : Env) (i : Instr) (s t : State) (h : exec i s = .next t) (ha : ¬ asks i)
    (hst : ∀ x, i ≠ .ldStVx x) : exec i { s with st := b, env := e } = .next { t with st := b, env := e } := by
  revert i t
  apply exec_next_cases (fun i s t => ¬ asks i → (∀ x, i ≠ .ldStVx x) →
    exec i { s with st := b, env := e } = .next { t with st := b, env := e }) s
  case ret_empty => exact fun h _ _ => execRet_empty _ h
  case ret_slot => exact fun j h _ _ => execRet_slot { s with st := b, env := e } j h
  case call_full => exact fun nnn h _ _ => (execCallNnn_eq nnn _).trans (if_neg h)
  case call_free => exact fun nnn h _ _ => (execCallNnn_eq nnn _).trans (if_pos h)
  case bcd_bad => exact fun x h _ _ => (execLdBVx_eq x _).trans (if_neg h)
  case bcd_ok => exact fun x h _ _ => (execLdBVx_eq x _).trans (if_pos h)
  case store_bad => exact fun x h _ _ => (execLdMemVx_eq x _).trans (if_neg h)
  case store_ok => exact fun x h _ _ => (execLdMemVx_eq x _).trans (if_pos h)
  case load_bad => exact fun x h _ _ => (execLdVxMem_eq x _).trans (if_neg h)
  case load_ok => exact fun x h _ _ => (execLdVxMem_eq x _).trans (if_pos h)
  case draw_bad | draw_ok => exact fun _ _ _ _ ha _ => absurd trivial ha
  case others =>
    intro i t hi h ha hst
    cases i
    case ret | callNnn | ldBVx | ldMemVx | ldVxMem | drwVxVyN => exact absurd trivial hi
    all_goals cases h
    case cls | rndVxNn | skpVx | sknpVx | ldVxK => exact absurd trivial ha
    case ldStVx x => exact absurd rfl (hst x)
    case seVxNn | sneVxNn | seVxVy | sneVxVy => exact congrArg _ (s.skipIf_with_st_env _ b e)
    all_goals rfl

/-- Such an instruction leaves ST and the world around CORE as they are. -/
theorem exec_keeps_st_env {i : Instr} {s t : State} (h : exec i s = .next t) (ha : ¬ asks i)
    (hst : ∀ x, i ≠ .ldStVx x) : t.st = s.st ∧ t.env = s.env := by
  have ht : t = { t with st := s.st, env := s.env } :=
    Host.Outcome.next.inj (h.symm.trans (exec_with_st_env s.st s.env i s t h ha hst))
  exact ⟨by rw [ht], by rw [ht]⟩

/-- An instruction that asks nobody carries the world around CORE through, whatever it is. -/
theorem exec_with_env {i : Instr} {s t : State} (h : exec i s = .next t) (ha : ¬ asks i) (e : Env) :
    exec i { s with env := e } = .next { t with env := e } := by
  by_cases hst : ∃ x, i = .ldStVx x
  · obtain ⟨x, rfl⟩ := hst
    cases h
    rfl
  · have hne : ∀ x, i ≠ .ldStVx x := fun x hx => hst ⟨x, hx⟩
    refine (exec_with_st_env s.st e i s t h ha hne).trans ?_
    rw [← (exec_keeps_st_env h ha hne).1]

end Sys2Proof.Machine

/-! ## Two runs with the same answers -/

namespace Sys2Proof.Machine

open Sys2Proof.Claims

/-- The six instructions of 46_io.md. -/
theorem asks_cases {i : Instr} (h : asks i) :
    i = .cls ∨ (∃ x nn, i = .rndVxNn x nn) ∨ (∃ x y n, i = .drwVxVyN x y n) ∨ (∃ x, i = .skpVx x) ∨
      (∃ x, i = .sknpVx x) ∨ ∃ x, i = .ldVxK x := by
  cases i with
  | cls | rndVxNn | drwVxVyN | skpVx | sknpVx | ldVxK => simp
  | _ => exact h.elim

/-- `q` answers `s`'s run to `t` with a run of its own: the same CORE and the same new requests. -/
def RunsAlike (s t q : State) (r : Result) : Prop :=
  ∃ u, r = .next u ∧ t.SameCore u ∧
    ∃ new, t.env.requests = new ++ s.env.requests ∧ u.env.requests = new ++ q.env.requests

theorem State.writeResult_sameCore (s t : State) (x : Reg) (r : Byte) (h : s.SameCore t) :
    (s.writeResult x r).SameCore (t.writeResult x r) := by
  rw [h.eq_with_env]
  rfl

@[simp] theorem State.takeKey_env (s : State) (x : Reg) (k : Option Nibble) : (s.takeKey x k).env = s.env := by
  cases k <;> rfl

theorem State.takeKey_sameCore (s t : State) (x : Reg) (k : Option Nibble) (h : s.SameCore t) :
    (s.takeKey x k).SameCore (t.takeKey x k) := by
  cases k with
  | none => exact h
  | some c => exact s.writeResult_sameCore t x _ h

/-- What fetch and decode give depends on CORE alone. -/
theorem State.SameCore.fetchDecode_eq {s q : State} (h : s.SameCore q) : q.fetchDecode = s.fetchDecode := by
  rw [h.eq_with_env]
  rfl

/-- A draw in two states with the same CORE and the same answers: both fault alike, or both send the same sprite and take
the same collision bit (R172). -/
theorem execDrwVxVyN_runsAlike (x y : Reg) (n : Nibble) (s t : State) (e : Env)
    (hcol : ∀ cx cy bytes, s.collisionAnswer cx cy bytes = State.collisionAnswer { s with env := e } cx cy bytes)
    (h : execDrwVxVyN x y n s = .next t) :
    RunsAlike s t { s with env := e } (execDrwVxVyN x y n { s with env := e }) := by
  rw [execDrwVxVyN_eq] at h ⊢
  by_cases hn : n.toNat = 0 ∨ s.i.toNat + n.toNat ≤ Config.memSize
  · rw [if_pos hn] at h ⊢
    cases h
    refine ⟨_, rfl, ?_, [.displayDraw (s.getV x) (s.getV y) (s.mem.readBlock s.i.toNat n.toNat)], rfl, rfl⟩
    rw [hcol]
    exact State.writeResult_sameCore _ _ _ _ rfl
  · rw [if_neg hn] at h ⊢
    cases h
    exact ⟨_, rfl, rfl, [], rfl, rfl⟩

/-- A key skip in two states with the same CORE: the same key is asked for, and the same answer leads to the same pc
(R173, R174). -/
theorem keySkip_runsAlike (s : State) (e : Env) (k : Byte) (c : Bool) :
    RunsAlike s ((s.askKeyDown k).skipIf c) { s with env := e }
      (.next ((State.askKeyDown { s with env := e } k).skipIf c)) :=
  ⟨_, rfl, State.skipIf_sameCore _ _ _ rfl, [.keyDown k], by rw [State.skipIf_env]; rfl, by rw [State.skipIf_env]; rfl⟩

/-- An instruction does the same in two states with the same CORE in which every question gets the same answer
(R34, R35). -/
theorem exec_runsAlike {i : Instr} {s q t : State} (hcore : s.SameCore q) (hans : s.SameAnswers q)
    (h : exec i s = .next t) : RunsAlike s t q (exec i q) := by
  obtain ⟨e, rfl⟩ : ∃ e, q = { s with env := e } := ⟨_, hcore.eq_with_env⟩
  by_cases ha : asks i
  · obtain ⟨hrandom, hwait, hdown, hcol⟩ := hans
    rcases asks_cases ha with rfl | ⟨x, nn, rfl⟩ | ⟨x, y, n, rfl⟩ | ⟨x, rfl⟩ | ⟨x, rfl⟩ | ⟨x, rfl⟩
    · cases h
      exact ⟨_, rfl, rfl, [.displayClear], rfl, rfl⟩
    · cases h
      rw [hrandom]
      exact ⟨_, rfl, State.writeResult_sameCore _ _ _ _ rfl, [.randomByte], rfl, rfl⟩
    · exact execDrwVxVyN_runsAlike x y n s t e hcol h
    · cases h
      rw [hdown]
      exact keySkip_runsAlike s e _ _
    · cases h
      rw [hdown]
      exact keySkip_runsAlike s e _ _
    · cases h
      rw [hwait]
      exact ⟨_, rfl, State.takeKey_sameCore _ _ _ _ rfl, [.keyWait], by rw [State.takeKey_env]; rfl,
        by rw [State.takeKey_env]; rfl⟩
  · have henv := (exec_with_env h ha s.env).symm.trans h
    have ht : t.env = s.env := (congrArg State.env (Host.Outcome.next.inj henv)).symm
    exact ⟨_, exec_with_env h ha e, rfl, [], by rw [ht]; rfl, rfl⟩

/-- So does a cycle: it begins with the same fetch and decode. -/
theorem cycle_runsAlike {s q t : State} (hcore : s.SameCore q) (hans : s.SameAnswers q) (h : cycle s = .next t) :
    RunsAlike s t q (cycle q) := by
  have hf : q.fetchDecode = s.fetchDecode := hcore.fetchDecode_eq
  have hq : q.halted = s.halted := congrArg (fun c : CoreState => c.halted) hcore.symm
  rcases cycle_cases s with ⟨hh, e⟩ | ⟨i, hh, hi, e⟩ | ⟨c, hh, hc, e⟩ <;> rw [e] at h
  · cases h
    exact ⟨q, cycle_halted q (hq.trans hh), hcore, [], rfl, rfl⟩
  · rw [cycle_exec q (hq.trans hh) i (hf.trans hi)]
    exact exec_runsAlike (s := s.markStarted) (q := q.markStarted) hcore hans h
  · cases h
    refine ⟨_, cycle_fault q (hq.trans hh) c (hf.trans hc), ?_, [], rfl, rfl⟩
    rw [hcore.eq_with_env]
    rfl

/-- An instruction that asks carries ST through: neither the question nor what is done with the answer reads it. -/
theorem exec_with_st_of_asks (b : Byte) {i : Instr} {s t : State} (h : exec i s = .next t) (ha : asks i) :
    exec i { s with st := b } = .next { t with st := b } := by
  rcases asks_cases ha with rfl | ⟨x, nn, rfl⟩ | ⟨x, y, n, rfl⟩ | ⟨x, rfl⟩ | ⟨x, rfl⟩ | ⟨x, rfl⟩
  · cases h
    rfl
  · cases h
    rfl
  · rw [exec, execDrwVxVyN_eq] at h ⊢
    split_ifs at h ⊢ <;> cases h <;> rfl
  · cases h
    exact congrArg Host.Outcome.next ((s.askKeyDown (s.getV x)).skipIf_with_st (s.keyDownAnswer (s.getV x)) b)
  · cases h
    exact congrArg Host.Outcome.next ((s.askKeyDown (s.getV x)).skipIf_with_st (!s.keyDownAnswer (s.getV x)) b)
  · cases h
    exact congrArg Host.Outcome.next (s.askKeyWait.takeKey_with_st x s.keyWaitAnswer b)

/-! ## Where pc goes, and what the registers hold -/

theorem pcPlus_eq (s : State) (k : Nat) : pcPlus s k = s.pc + BitVec.ofNat 16 k := by
  apply BitVec.eq_of_toNat_eq
  simp [pcPlus]

theorem flagByte_le_one (f : Bool) : (flagByte f).toNat ≤ 1 := by
  cases f <;> decide

theorem not_writesFlag_of_isSkip {i : Instr} (h : isSkip i) : ¬ writesFlag i := by
  cases i with
  | seVxNn | sneVxNn | seVxVy | sneVxVy | skpVx | sknpVx => exact id
  | _ => exact h.elim

theorem not_writesFlag_of_setsPc {i : Instr} (h : setsPc i) : ¬ writesFlag i := by
  cases i with
  | jpNnn | callNnn | jpV0Nnn | ret => exact id
  | _ => exact h.elim

/-- A register that is neither a destination nor a written flag is kept (R21, R22). -/
theorem exec_keeps_getV {i : Instr} {s t : State} {r : Reg} (h : exec i s = .next t) (hd : ¬ hasDest i r)
    (hf : ¬ (writesFlag i ∧ r = 15)) : t.getV r = s.getV r := by
  cases leaves_of_exec i s t h with
  | result _ e x b hx _ =>
    have hr : r ≠ x := fun e => hd (e ▸ hx)
    rw [State.getV_writeResult, if_neg hr]
    rfl
  | resultFlag _ x b f hx hw =>
    have hr : r ≠ x := fun e => hd (e ▸ hx)
    have hv : r ≠ vf := fun e => hf ⟨hw, e⟩
    rw [State.getV_writeResultFlag, if_neg hv, if_neg hr]
  | collision x y n e f =>
    have hv : r ≠ vf := fun e => hf ⟨trivial, e⟩
    rw [State.getV_writeResult, if_neg hv]
    rfl
  | load x v hv => exact hv r hd
  | skip _ e c _ => exact congrArg (·[r]) (State.skipIf_v _ c)
  | _ => rfl

/-- A flag-writing instruction that does not fault leaves 0 or 1 in VF (R22). -/
theorem exec_flag_le_one {i : Instr} {s t : State} (h : exec i s = .next t) (hw : writesFlag i)
    (ht : t.halted = false) : num t 15 ≤ 1 := by
  cases leaves_of_exec i s t h with
  | fault => cases ht
  | resultFlag _ x b f _ _ =>
    rw [num, State.getV_writeResultFlag, if_pos rfl]
    exact flagByte_le_one f
  | collision x y n e f =>
    rw [num, State.getV_writeResult, if_pos rfl]
    exact flagByte_le_one f
  | result _ e x b _ hf => exact absurd hw hf
  | skip _ e c hi => exact absurd hw (not_writesFlag_of_isSkip hi)
  | jump _ a hi _ => exact absurd hw (not_writesFlag_of_setsPc hi)
  | pass _ e hi => rcases hi with rfl | rfl <;> exact hw.elim
  | index _ a hi => rcases hi with ⟨_, rfl⟩ | ⟨_, rfl⟩ | ⟨_, rfl⟩ <;> exact hw.elim
  | store _ m hi _ => rcases hi with ⟨_, rfl⟩ | ⟨_, rfl⟩ <;> exact hw.elim
  | ret | call | hold | delay | sound | load => exact hw.elim

/-- The bytes at pc decode as fetch and decode do. -/
theorem State.fetchDecode_of_decodeBytes (s : State) (i : Instr) (hpc : s.pc.toNat + 1 < Config.memSize)
    (h : decodeBytes [s.mem.readByte s.pc.toNat, s.mem.readByte (s.pc.toNat + 1)] = .ok (i, [])) :
    s.fetchDecode = .ok i := by
  rw [decodeBytes] at h
  rw [State.fetchDecode, State.fetch_eq, if_pos hpc]
  split at h <;> cases h
  rename_i hi
  simp only [hi]

end Sys2Proof.Machine

/-! ## The obligations -/

namespace Sys2Proof.Proofs

open Sys2Proof.Machine Sys2Proof.Claims

/-- Settles O59: a cycle keeps the invariant because every shape of effect does; a tick and a reset do so at once, and a
loader write by the law of the memory's form. -/
theorem stepKeepsTheInvariant : Obligations.StepKeepsTheInvariant := by
  intro s t hinv h
  have hpop := hinv.of_sameCore s.popScript_sameCore
  rcases step_cases s with ⟨-, e⟩ | ⟨-, e⟩ | ⟨-, e⟩ | ⟨a, b, -, e⟩ <;> rw [e] at h
  · exact cycle_keeps_inv hpop h
  · cases h
    exact hpop.with_data s.v s.i (tickTimer s.dt) (tickTimer s.st) s.popScript.env
  · cases h
    exact State.reset_inv.of_sameCore rfl
  · obtain ⟨-, ha, rfl⟩ := loaderWrite_next s.popScript t a b h
    exact hpop.setMem _ (Memory.wf_writeByte _ a b hpop.mem_wf ha)

/-- Settles O36: an instruction that asks nobody carries ST through, and so do the six that ask. -/
theorem noInstructionReadsTheSoundTimer : Obligations.NoInstructionReadsTheSoundTimer := by
  refine ⟨fun i s t b hst h => ?_, fun x s b => rfl⟩
  by_cases ha : asks i
  · exact exec_with_st_of_asks b h ha
  · have hrun := exec_with_st_env b s.env i s t h ha hst
    exact hrun.trans (by rw [← (exec_keeps_st_env h ha hst).2])

/-- Settles O43: an instruction that asks nobody carries the world around CORE through; with the same answers, every
instruction and every cycle runs alike. -/
theorem noHiddenStateOutsideTheCollaborators : Obligations.NoHiddenStateOutsideTheCollaborators := by
  refine ⟨fun i s q t ha hcore h => ?_, fun i s q t hcore hans h => exec_runsAlike hcore hans h,
    fun s q t hcore hans h => cycle_runsAlike hcore hans h⟩
  rw [hcore.eq_with_env]
  exact ⟨_, exec_with_env h ha q.env, rfl⟩

/-- Settles O52: every shape of effect but the one that writes I keeps I. -/
theorem onlyIndexInstructionsChangeI : Obligations.OnlyIndexInstructionsChangeI := by
  intro i s t h hne
  cases leaves_of_exec i s t h with
  | index _ a hi => exact hi
  | skip _ e c _ => exact absurd (State.skipIf_i _ c) hne
  | _ => exact absurd rfl hne

/-- Settles O53: a call counts SP up, a return counts it down and keeps the slots, and every other shape of effect keeps
both. -/
theorem onlyCallAndReturnChangeTheStack : Obligations.OnlyCallAndReturnChangeTheStack := by
  intro i s t h hne
  cases leaves_of_exec i s t h with
  | call nnn hsp => exact .inl ⟨nnn, rfl, sp_add_one_toNat s.sp hsp⟩
  | ret j hsp =>
    have h0 : s.sp ≠ 0 := fun e => by simp [e] at hsp
    have hdown := sp_sub_one_toNat s.sp h0
    exact .inr ⟨rfl, by dsimp only; omega, rfl⟩
  | skip _ e c _ => exact absurd hne (by simp)
  | _ => exact absurd hne (not_or_intro (not_not_intro rfl) (not_not_intro rfl))

/-- Settles O54: every shape of effect but the two timer writes keeps both timers. -/
theorem onlyTimerWritesChangeTheTimers : Obligations.OnlyTimerWritesChangeTheTimers := by
  intro i s t h
  cases leaves_of_exec i s t h with
  | delay x => exact ⟨fun _ => ⟨x, rfl, rfl⟩, absurd rfl⟩
  | sound x => exact ⟨absurd rfl, fun _ => ⟨x, rfl, rfl⟩⟩
  | skip _ e c _ => exact ⟨absurd (State.skipIf_dt _ c), absurd (State.skipIf_st _ c)⟩
  | _ => exact ⟨absurd rfl, absurd rfl⟩

/-- Settles O56: outside the destinations and the flag a register is kept, and what is written to VF as a flag is 0
or 1. -/
theorem registersChangeOnlyAsNamed : Obligations.RegistersChangeOnlyAsNamed := by
  intro i s t r h
  refine ⟨fun hne => ?_, fun hw _ ht => exec_flag_le_one h hw ht⟩
  by_contra hnot
  obtain ⟨hd, hf⟩ := not_or.mp hnot
  exact hne (exec_keeps_getV h hd hf)

/-- Settles O57: a shape of effect advances, skips, or keeps pc, and those that keep it are a fault and a hold. -/
theorem pcMovesAsTheRuleSays : Obligations.PcMovesAsTheRuleSays := by
  intro i s t h hi
  rw [pcPlus_eq, pcPlus_eq]
  cases leaves_of_exec i s t h with
  | fault => exact .inr (.inr ⟨rfl, .inl rfl⟩)
  | hold x e hk => exact .inr (.inr ⟨rfl, .inr ⟨x, rfl, hk⟩⟩)
  | ret | call => exact absurd trivial hi
  | jump _ a hj => exact absurd hj hi
  | skip _ e c hs =>
    rw [State.skipIf_pc]
    cases c with
    | false => exact .inl rfl
    | true => exact .inr (.inl ⟨hs, rfl⟩)
  | _ => exact .inl rfl

/-- Settles O7: the two bytes at pc are what fetch and decode read, and the step adds what `popScript` and
`markStarted` do. -/
theorem stepRunsTheDecodedInstruction : Obligations.StepRunsTheDecodedInstruction := by
  intro s i hmove hrun hpc hbytes
  have hi := s.popScript.fetchDecode_of_decodeBytes i hpc hbytes
  rw [step, hmove, hostMove, cycle_exec s.popScript hrun i hi]
  rfl

/-- Settles O14, by the equation of a return without a slot. -/
theorem returnWithoutASlotStops : Obligations.ReturnWithoutASlotStops :=
  execRet_noSlot

/-- Settles O58: each field of the reset state is a closed fact. -/
theorem resetMeetsTheInvariant : Obligations.ResetMeetsTheInvariant :=
  State.reset_inv

end Sys2Proof.Proofs

/-! # Proofs of the statements about memory (20_memory.md)

One byte, one fetched word, and what an instruction can do to memory: nothing, or one block of at most 16 bytes stored at
I. The obligations combine these rules with the laws of Laws/Memory.lean. -/

namespace Sys2Proof.Machine

/-! ## One byte and one word -/

theorem memRead_ok (m : Memory) (a : Nat) (h : a < Config.memSize) : memRead m a = .ok (m.readByte a) :=
  if_pos h

theorem memRead_error (m : Memory) (a : Nat) (h : Config.memSize ≤ a) : memRead m a = .error (.memRange a) :=
  if_neg (not_lt.mpr h)

theorem memWrite_ok (m : Memory) (a : Nat) (b : Byte) (h : a < Config.memSize) :
    memWrite m a b = .ok (m.writeByte a b) :=
  if_pos h

theorem memWrite_error (m : Memory) (a : Nat) (b : Byte) (h : Config.memSize ≤ a) :
    memWrite m a b = .error (.memRange a) :=
  if_neg (not_lt.mpr h)

/-- The two bytes of a word, the first the more significant (R53). -/
theorem wordOfBytes_toNat (hi lo : Byte) : (wordOfBytes hi lo).toNat = hi.toNat * 256 + lo.toNat := by
  rw [wordOfBytes, BitVec.toNat_append, ← Nat.shiftLeft_add_eq_or_of_lt lo.isLt, Nat.shiftLeft_eq]

/-- A fetch within the 4096 bytes reads the word at pc as a number (R56, R57). -/
theorem State.fetch_ok (s : State) (h : s.pc.toNat + 1 < Config.memSize) :
    ∃ w : Word, s.fetch = .ok w ∧
      w.toNat = (s.mem.readByte s.pc.toNat).toNat * 256 + (s.mem.readByte (s.pc.toNat + 1)).toNat :=
  ⟨_, s.fetch_eq.trans (if_pos h), wordOfBytes_toNat _ _⟩

/-- A fetch with pc set to an address that has a next one below 4096. -/
theorem State.fetch_at (s : State) (a : Nat) (h : a + 1 < Config.memSize) :
    ∃ w : Word, ({ s with pc := BitVec.ofNat 16 a } : State).fetch = .ok w ∧
      w.toNat = (s.mem.readByte a).toNat * 256 + (s.mem.readByte (a + 1)).toNat := by
  have hlt : a < 2 ^ 16 := (Nat.lt_of_succ_lt h).trans (by decide)
  have hpc : (BitVec.ofNat 16 a).toNat = a := by rw [BitVec.toNat_ofNat, Nat.mod_eq_of_lt hlt]
  have hfetch := State.fetch_ok { s with pc := BitVec.ofNat 16 a } (by rw [hpc]; exact h)
  rwa [hpc] at hfetch

/-- A fetch that leaves the 4096 bytes faults with the lower bad address (R57, decision D23). -/
theorem State.fetch_error (s : State) (h : Config.memSize ≤ s.pc.toNat + 1) :
    s.fetch = .error (.memRange (max s.pc.toNat Config.memSize)) :=
  s.fetch_eq.trans (if_neg (not_lt.mpr h))

/-! ## Blocks -/

/-- Storing a block leaves the addresses below and above it alone (R55, R60). -/
theorem Memory.readByte_writeBlock_outside (m : Memory) (base : Nat) (bytes : List Byte) (a : Nat)
    (h : a < base ∨ base + bytes.length ≤ a) : (m.writeBlock base bytes).readByte a = m.readByte a := by
  rw [Memory.readByte_writeBlock]
  split_ifs with hb
  · have hlen : bytes.length ≤ a - base := by omega
    rw [List.getElem?_eq_none hlen, Option.getD_none]
  · rfl

/-- After V0 to Vx are stored at `base`, the byte at `base + k` is Vk (R154). -/
theorem State.readByte_writeBlock_vBlock (s : State) (m : Memory) (base : Nat) (x k : Reg) (h : k ≤ x) :
    (m.writeBlock base (s.vBlock x)).readByte (base + k.val) = s.getV k := by
  rw [Memory.readByte_writeBlock, if_pos (Nat.le_add_right _ _), Nat.add_sub_cancel_left, s.vBlock_getElem x k h,
    Option.getD_some]

/-! ## What an instruction does to memory -/

/-- Every shape of effect but a store keeps memory. -/
theorem exec_keeps_mem {i : Instr} {s t : State} (h : exec i s = .next t)
    (hi : ¬ ((∃ x, i = .ldBVx x) ∨ ∃ x, i = .ldMemVx x)) : t.mem = s.mem := by
  cases leaves_of_exec i s t h with
  | store _ m hstore _ => exact absurd hstore hi
  | skip _ e c _ => exact State.skipIf_mem _ c
  | _ => rfl

/-- Fx33 and Fx55 store one block of at most 16 bytes at I, or fault and store none (R153, R154). -/
theorem exec_store_mem {i : Instr} {s t : State} (h : exec i s = .next t)
    (hi : (∃ x, i = .ldBVx x) ∨ ∃ x, i = .ldMemVx x) :
    ∃ bytes : List Byte, bytes.length ≤ 16 ∧ t.mem = s.mem.writeBlock s.i.toNat bytes := by
  rcases hi with ⟨x, rfl⟩ | ⟨x, rfl⟩
  · rw [exec, execLdBVx_eq] at h
    split_ifs at h <;> cases h
    · exact ⟨bcdDigits (s.getV x), by simp [bcdDigits], rfl⟩
    · exact ⟨[], by simp, rfl⟩
  · rw [exec, execLdMemVx_eq] at h
    split_ifs at h <;> cases h
    · exact ⟨s.vBlock x, (s.vBlock_length x).trans_le x.isLt, rfl⟩
    · exact ⟨[], by simp, rfl⟩

/-- No instruction changes a byte outside I to I + 15 (R55). -/
theorem exec_readByte_outside {i : Instr} {s t : State} (h : exec i s = .next t) (a : Nat)
    (ha : a < s.i.toNat ∨ s.i.toNat + 16 ≤ a) : t.mem.readByte a = s.mem.readByte a := by
  by_cases hi : (∃ x, i = .ldBVx x) ∨ ∃ x, i = .ldMemVx x
  · obtain ⟨bytes, hlen, hmem⟩ := exec_store_mem h hi
    rw [hmem]
    exact Memory.readByte_writeBlock_outside _ _ _ _ (by omega)
  · rw [exec_keeps_mem h hi]

end Sys2Proof.Machine

namespace Sys2Proof.Proofs

open Sys2Proof.Machine

/-- Settles O5, by the law of one byte; an address from 4096 on is checked before the memory is looked at. -/
theorem memoryReadGivesTheLastWrite : Obligations.MemoryReadGivesTheLastWrite := by
  intro m a b
  refine ⟨fun ha => ⟨memRead_error m a ha, memWrite_error m a b ha⟩, fun ha => ?_⟩
  refine ⟨m.writeByte a b, memWrite_ok m a b ha, ?_, fun c hc => ?_, fun hm => Memory.wf_writeByte m a b hm ha⟩
  · rw [memRead_ok _ a ha, Memory.readByte_writeByte, if_pos rfl]
  · rw [memRead, memRead, Memory.readByte_writeByte, if_neg hc]

/-- Settles O33: the store is in range, so memory holds the block at I; the fetch at I + k then reads Vk and Vl. -/
theorem storedBytesAreFetchedNext : Obligations.StoredBytesAreFetchedNext := by
  intro x s hx
  refine ⟨_, (execLdMemVx_eq x s).trans (if_pos hx), fun k l hl hlx => ?_⟩
  have hkx : k ≤ x := (Fin.le_def.mpr (hl ▸ Nat.le_succ _)).trans hlx
  have hrange : s.i.toNat + k.val + 1 < Config.memSize := by
    rw [Nat.add_assoc, ← hl]
    exact (Nat.add_le_add_left hlx _).trans_lt hx
  obtain ⟨w, hw, hnum⟩ := State.fetch_at _ (s.i.toNat + k.val) hrange
  refine ⟨w, hw, hnum.trans ?_⟩
  rw [Nat.add_assoc, ← hl, State.advance_mem, State.setMem_mem, s.readByte_writeBlock_vBlock _ _ x k hkx,
    s.readByte_writeBlock_vBlock _ _ x l hlx]
  rfl

/-- Settles O55: outside Fx33 and Fx55 memory is kept whole, and those two store one block at I. -/
theorem onlyStoresChangeMemory : Obligations.OnlyStoresChangeMemory := by
  intro i s t h
  refine ⟨fun hne => ?_, exec_readByte_outside h⟩
  by_contra hi
  exact hne (exec_keeps_mem h hi)

/-- Settles O6, by the two outcomes of a fetch. -/
theorem fetchReadsTwoBytesHighFirst : Obligations.FetchReadsTwoBytesHighFirst := by
  intro s
  refine ⟨s.fetch_ok, fun hpc => ?_, fun hpc => ?_⟩
  · rw [s.fetch_error (congrArg Nat.succ hpc).ge, hpc]
    rfl
  · rw [s.fetch_error (hpc.trans (Nat.le_succ _)), max_eq_left hpc]

end Sys2Proof.Proofs

/-! # Proofs of the statements about encoding and decoding (30_encoding.md)

`decode_encode` and `encode_of_decode` make the decoder and the encoder inverse to each other (`decode_eq_ok_iff`). With
`decode_of_covered`, that a word covered by a row decodes to an instruction of that row, they give the opcode map. -/

namespace Sys2Proof

/-! ## The families with a sub-opcode -/

theorem decode_family0 {w : Word} (h : opField w = 0x0) : decode w = decode0 w := by
  rw [decode, h]
  rfl

theorem decode_family8 {w : Word} (h : opField w = 0x8) : decode w = decode8 w := by
  rw [decode, h]
  rfl

theorem decode_familyE {w : Word} (h : opField w = 0xE) : decode w = decodeE w := by
  rw [decode, h]
  rfl

theorem decode_familyF {w : Word} (h : opField w = 0xF) : decode w = decodeF w := by
  rw [decode, h]
  rfl

/-! ## Decoding an encoded instruction -/

/-- The decoder undoes the encoder: the fields of a packed word are what was packed (R71, R72). -/
theorem decode_encode (i : Instr) : decode (encode i) = .ok i := by
  cases i
  case nop | cls | ret => rfl
  case jpNnn | callNnn | ldINnn | jpV0Nnn =>
    rw [encode, decode, opField_packNnn, nnnField_packNnn]
    rfl
  case seVxNn | sneVxNn | ldVxNn | addVxNn | rndVxNn =>
    rw [encode, decode, opField_packXnn, xField_packXnn, nnField_packXnn]
    rfl
  case seVxVy | sneVxVy | drwVxVyN =>
    rw [encode, decode, opField_packXyn, xField_packXyn, yField_packXyn, nField_packXyn]
    rfl
  case ldVxVy | orVxVy | andVxVy | xorVxVy | addVxVy | subVxVy | shrVxVy | subnVxVy | shlVxVy =>
    rw [encode, decode_family8 (opField_packXyn ..), decode8, nField_packXyn, xField_packXyn, yField_packXyn]
    rfl
  case skpVx | sknpVx =>
    rw [encode, decode_familyE (opField_packXnn ..), decodeE, nnField_packXnn, xField_packXnn]
    rfl
  case ldVxDt | ldVxK | ldDtVx | ldStVx | addIVx | ldFVx | ldBVx | ldMemVx | ldVxMem =>
    rw [encode, decode_familyF (opField_packXnn ..), decodeF, nnField_packXnn, xField_packXnn]
    rfl

/-! ## Encoding a decoded word -/

section FieldsGiven

variable {w : Word} {op n : Nibble} {nn : Byte} (hop : (opField w).toNat = op.toNat)

include hop

theorem packNnn_of_fields : packNnn op (nnnField w) = w := by
  rw [← BitVec.eq_of_toNat_eq hop, packNnn_fields]

theorem packXnn_of_fields (hnn : (nnField w).toNat = nn.toNat) : packXnn op (xField w) nn = w := by
  rw [← BitVec.eq_of_toNat_eq hop, ← BitVec.eq_of_toNat_eq hnn, packXnn_fields]

theorem packXyn_of_fields (hn : (nField w).toNat = n.toNat) : packXyn op (xField w) (yField w) n = w := by
  rw [← BitVec.eq_of_toNat_eq hop, ← BitVec.eq_of_toNat_eq hn, packXyn_fields]

end FieldsGiven

theorem encode_of_decode0 {w : Word} {i : Instr} (h : decode0 w = .ok i) : encode i = w := by
  rw [decode0] at h
  split_ifs at h with hw hw hw <;> cases h
  all_goals exact hw.symm

theorem encode_of_decode8 {w : Word} {i : Instr} (hop : (opField w).toNat = 0x8) (h : decode8 w = .ok i) :
    encode i = w := by
  rw [decode8] at h
  split at h <;> cases h
  all_goals
    rename_i hn
    exact packXyn_of_fields hop hn

theorem encode_of_decodeE {w : Word} {i : Instr} (hop : (opField w).toNat = 0xE) (h : decodeE w = .ok i) :
    encode i = w := by
  rw [decodeE] at h
  split at h <;> cases h
  all_goals
    rename_i hnn
    exact packXnn_of_fields hop hnn

theorem encode_of_decodeF {w : Word} {i : Instr} (hop : (opField w).toNat = 0xF) (h : decodeF w = .ok i) :
    encode i = w := by
  rw [decodeF] at h
  split at h <;> cases h
  all_goals
    rename_i hnn
    exact packXnn_of_fields hop hnn

/-- The encoder undoes the decoder: a word is its family and its fields, those that select the instruction included
(R71, R72). -/
theorem encode_of_decode {w : Word} {i : Instr} (h : decode w = .ok i) : encode i = w := by
  rw [decode] at h
  split at h
  case h_1 => exact encode_of_decode0 h
  case h_9 hop => exact encode_of_decode8 hop h
  case h_15 hop => exact encode_of_decodeE hop h
  case h_16 hop => exact encode_of_decodeF hop h
  case h_6 hop | h_10 hop =>
    split_ifs at h with hn
    cases h
    exact packXyn_of_fields hop (congrArg BitVec.toNat hn)
  all_goals cases h
  case h_2 hop | h_3 hop | h_11 hop | h_12 hop => exact packNnn_of_fields hop
  case h_4 hop | h_5 hop | h_7 hop | h_8 hop | h_13 hop => exact packXnn_of_fields hop rfl
  case h_14 hop => exact packXyn_of_fields hop rfl

/-- Decoder and encoder are inverse to each other. -/
theorem decode_eq_ok_iff {w : Word} {i : Instr} : decode w = .ok i ↔ encode i = w :=
  ⟨encode_of_decode, fun h => h ▸ decode_encode i⟩

/-! ## The opcode map -/

/-- One instruction of each row, in the order of the opcode map. -/
def instrOfEachRow : List Instr :=
  [.nop, .cls, .ret, .jpNnn 0, .callNnn 0, .jpV0Nnn 0,
   .seVxNn 0 0, .sneVxNn 0 0, .seVxVy 0 0, .ldVxNn 0 0, .addVxNn 0 0, .sneVxVy 0 0,
   .ldVxVy 0 0, .orVxVy 0 0, .andVxVy 0 0, .xorVxVy 0 0, .addVxVy 0 0, .subVxVy 0 0, .shrVxVy 0 0, .subnVxVy 0 0,
   .shlVxVy 0 0,
   .ldINnn 0, .rndVxNn 0 0, .drwVxVyN 0 0 0, .skpVx 0, .sknpVx 0,
   .ldVxDt 0, .ldVxK 0, .ldDtVx 0, .ldStVx 0, .addIVx 0, .ldFVx 0, .ldBVx 0, .ldMemVx 0, .ldVxMem 0]

theorem map_row_instrOfEachRow : instrOfEachRow.map Instr.row = opcodeTable :=
  rfl

/-- Every row of the map is the row of some instruction. -/
theorem exists_row_eq {r : Row} (h : r ∈ opcodeTable) : ∃ i : Instr, i.row = r := by
  rw [← map_row_instrOfEachRow] at h
  obtain ⟨i, -, hi⟩ := List.mem_map.mp h
  exact ⟨i, hi⟩

/-- The row of every instruction stands in the map. -/
theorem row_mem_opcodeTable (i : Instr) : i.row ∈ opcodeTable :=
  List.contains_iff_mem.mp (Laws.EncodedWordMatchesRow.statement i).1

/-- The row of an instruction covers its encoded word. -/
theorem encode_and_row_mask (i : Instr) : encode i &&& i.row.mask = i.row.fixed :=
  eq_of_beq (Laws.EncodedWordMatchesRow.statement i).2

section MaskedFields

variable {w m f : Word} (h : w &&& m = f)

include h

/-- A mask that keeps a whole field fixes that field. -/
theorem extractLsb'_of_masked (start len : Nat) (hm : m.extractLsb' start len = BitVec.allOnes len) :
    w.extractLsb' start len = f.extractLsb' start len := by
  rw [← h, BitVec.extractLsb'_and, hm, BitVec.and_allOnes]

theorem opField_of_masked (hm : opField m = 0xF) : opField w = opField f :=
  extractLsb'_of_masked h 12 4 hm

theorem nField_of_masked (hm : nField m = 0xF) : nField w = nField f :=
  extractLsb'_of_masked h 0 4 hm

theorem nnField_of_masked (hm : nnField m = 0xFF) : nnField w = nnField f :=
  extractLsb'_of_masked h 0 8 hm

end MaskedFields

/-- A word that the row of an instruction covers decodes to an instruction of that row: its mask fixes the fields that
the decoder looks at. -/
theorem decode_of_covered (i : Instr) {w : Word} (h : w &&& i.row.mask = i.row.fixed) :
    ∃ j, decode w = .ok j ∧ j.row = i.row := by
  cases i <;> dsimp only [Instr.row] at h
  case nop | cls | ret =>
    obtain rfl := BitVec.and_allOnes.symm.trans h
    exact ⟨_, rfl, rfl⟩
  case jpNnn | callNnn | seVxNn | sneVxNn | ldVxNn | addVxNn | ldINnn | jpV0Nnn | rndVxNn | drwVxVyN =>
    rw [decode, opField_of_masked h rfl]
    exact ⟨_, rfl, rfl⟩
  case seVxVy | sneVxVy =>
    rw [decode, opField_of_masked h rfl]
    exact ⟨_, if_pos (nField_of_masked h rfl), rfl⟩
  case ldVxVy | orVxVy | andVxVy | xorVxVy | addVxVy | subVxVy | shrVxVy | subnVxVy | shlVxVy =>
    rw [decode_family8 (opField_of_masked h rfl), decode8, nField_of_masked h rfl]
    exact ⟨_, rfl, rfl⟩
  case skpVx | sknpVx =>
    rw [decode_familyE (opField_of_masked h rfl), decodeE, nnField_of_masked h rfl]
    exact ⟨_, rfl, rfl⟩
  case ldVxDt | ldVxK | ldDtVx | ldStVx | addIVx | ldFVx | ldBVx | ldMemVx | ldVxMem =>
    rw [decode_familyF (opField_of_masked h rfl), decodeF, nnField_of_masked h rfl]
    exact ⟨_, rfl, rfl⟩

/-- A decoded word is covered by the row of its instruction. -/
theorem and_row_mask_of_decode {w : Word} {i : Instr} (h : decode w = .ok i) : w &&& i.row.mask = i.row.fixed := by
  rw [← encode_of_decode h]
  exact encode_and_row_mask i

/-- A word is covered by a row of the map exactly when it decodes to an instruction of that row (R76). -/
theorem covered_iff_decode {r : Row} (hr : r ∈ opcodeTable) (w : Word) :
    w &&& r.mask = r.fixed ↔ ∃ i, decode w = .ok i ∧ i.row = r := by
  constructor
  · obtain ⟨i, rfl⟩ := exists_row_eq hr
    exact decode_of_covered i
  · rintro ⟨i, hi, rfl⟩
    exact and_row_mask_of_decode hi

/-- No word is covered by two rows: it decodes to one instruction. -/
theorem row_eq_of_covered {r q : Row} {w : Word} (hr : r ∈ opcodeTable) (hq : q ∈ opcodeTable)
    (hwr : w &&& r.mask = r.fixed) (hwq : w &&& q.mask = q.fixed) : r = q := by
  obtain ⟨i, hi, rfl⟩ := (covered_iff_decode hr w).mp hwr
  obtain ⟨j, hj, rfl⟩ := (covered_iff_decode hq w).mp hwq
  cases hi.symm.trans hj
  rfl

/-- A word that no row covers is illegal (R80). -/
theorem decode_of_not_covered {w : Word} (h : ∀ r ∈ opcodeTable, w &&& r.mask ≠ r.fixed) :
    decode w = .error (.illegalOpcode w) := by
  cases hw : decode w with
  | ok i => exact absurd (and_row_mask_of_decode hw) (h i.row (row_mem_opcodeTable i))
  | error e => rw [decode_error w e hw]

end Sys2Proof

namespace Sys2Proof.Proofs

/-- Settles O1: the decoder undoes the encoder, instruction by instruction. -/
theorem decodeOfEncodeIsTheInstruction : Obligations.DecodeOfEncodeIsTheInstruction :=
  fun i _ => decode_encode i

/-- Settles O2: the encoder undoes the decoder, family by family. -/
theorem encodeOfDecodeIsTheWord : Obligations.EncodeOfDecodeIsTheWord :=
  fun _ _ h => encode_of_decode h

/-- Settles O3: a covered word decodes because the mask fixes what the decoder looks at, and a decoded word is covered
because it is an encoded one; that no two rows meet follows, the decoder being a function. -/
theorem decoderFollowsTheOpcodeMap : Obligations.DecoderFollowsTheOpcodeMap :=
  ⟨rfl, fun _ w hr => covered_iff_decode hr w, fun _ _ _ hr hq => row_eq_of_covered hr hq,
    fun _ h => decode_of_not_covered h⟩

/-- Settles O4: the legal words decode by evaluation, and the two illegal ones are covered by no row. -/
theorem sampleWordsDecodeAsTheMapSays : Obligations.SampleWordsDecodeAsTheMapSays :=
  ⟨by decide, by decide, by decide, by decide, by decide, by decide, decode_of_not_covered (by decide),
    decode_of_not_covered (by decide)⟩

end Sys2Proof.Proofs

/-! # Proofs of the statements about control transfer (40_control.md)

What the words of families 0, 1, 2 and B decode to, and what a call and a return leave, with the stack slot named. That
the return lands on the call is the last two put together: the slot the call wrote is the slot the return reads. -/

namespace Sys2Proof

/-! ## Decoding the control words -/

/-- Family 0 has three legal words (R100). -/
theorem decode_family0_error {w : Word} (h : opField w = 0x0) (hnop : w ≠ 0x0000) (hcls : w ≠ 0x00E0)
    (hret : w ≠ 0x00EE) : decode w = .error (.illegalOpcode w) := by
  rw [decode_family0 h, decode0, if_neg hnop, if_neg hcls, if_neg hret]

theorem decode_family1 {w : Word} (h : opField w = 0x1) : decode w = .ok (.jpNnn (nnnField w)) := by
  rw [decode, h]
  rfl

theorem decode_family2 {w : Word} (h : opField w = 0x2) : decode w = .ok (.callNnn (nnnField w)) := by
  rw [decode, h]
  rfl

theorem decode_familyB {w : Word} (h : opField w = 0xB) : decode w = .ok (.jpV0Nnn (nnnField w)) := by
  rw [decode, h]
  rfl

theorem decode_eq_nop_iff {w : Word} : decode w = .ok .nop ↔ w = 0x0000 :=
  decode_eq_ok_iff.trans eq_comm

theorem decode_eq_ret_iff {w : Word} : decode w = .ok .ret ↔ w = 0x00EE :=
  decode_eq_ok_iff.trans eq_comm

end Sys2Proof

namespace Sys2Proof.Machine

open Sys2Proof.Claims

/-! ## Fetching and jumping -/

/-- What fetch and decode give where the two bytes at pc are a word that decodes (R33). -/
theorem State.fetchDecode_of_decode (s : State) (i : Instr) (hpc : s.pc.toNat + 1 < Config.memSize)
    (h : decode (wordOfBytes (s.mem.readByte s.pc.toNat) (s.mem.readByte (s.pc.toNat + 1))) = .ok i) :
    s.fetchDecode = .ok i :=
  s.fetchDecode_of_decodeBytes i hpc (by simp only [decodeBytes, h])

/-- The last byte of memory and the address above it are no place to fetch from: either way the lowest bad address is
0x1000 (R57, decision D23). -/
theorem State.fetch_error_mem_end (s : State) (h : s.pc = 0xFFF ∨ s.pc = 0x1000) :
    s.fetch = .error (.memRange 0x1000) := by
  rcases h with h | h
  · rw [s.fetch_eq, h]
    rfl
  · rw [s.fetch_eq, h]
    rfl

theorem zextImm_eq_ofNat (nnn : Imm12) : zextImm nnn = BitVec.ofNat 16 nnn.toNat :=
  (BitVec.ofNat_toNat 16 nnn).symm

/-- A jump to its own address changes nothing (R102). -/
theorem State.setPc_zextImm_self (s : State) (nnn : Imm12) (h : s.pc.toNat = nnn.toNat) :
    s.setPc (zextImm nnn) = s := by
  have hpc : zextImm nnn = s.pc := BitVec.eq_of_toNat_eq ((zextImm_toNat nnn).trans h.symm)
  rw [hpc]
  rfl

/-! ## Call and return, the slot named -/

/-- What a call with a free slot leaves: its own address in slot `j`, the first free one (R103). -/
def State.called (s : State) (nnn : Imm12) (j : Fin 16) : State :=
  { s with stack := s.stack.set j.val s.pc, sp := BitVec.ofNat 8 (j.val + 1), pc := BitVec.ofNat 16 nnn.toNat }

theorem byte_eq_ofNat_of_toNat_eq {b : Byte} {n : Nat} (h : b.toNat = n) : b = BitVec.ofNat 8 n := by
  rw [← h, BitVec.ofNat_toNat, BitVec.setWidth_eq]

theorem exec_callNnn_free (nnn : Imm12) (s : State) (j : Fin 16) (h : s.sp.toNat = j.val) :
    exec (.callNnn nnn) s = .next (s.called nnn j) := by
  have hfree : s.sp.toNat < Config.stackDepth := h.trans_lt j.isLt
  have hslot : s.stack.setIfInBounds j.val s.pc = s.stack.set j.val s.pc := by
    ext k hk
    rw [Vector.getElem_setIfInBounds, Vector.getElem_set]
  have hsp : s.sp + 1 = BitVec.ofNat 8 (j.val + 1) := by
    rw [byte_eq_ofNat_of_toNat_eq h]
    exact (BitVec.ofNat_add j.val 1).symm
  rw [exec, execCallNnn_eq, if_pos hfree, h, hslot, hsp, zextImm_eq_ofNat, State.called]

theorem exec_callNnn_full (nnn : Imm12) (s : State) (h : Config.stackDepth ≤ s.sp.toNat) :
    exec (.callNnn nnn) s = .next (latched s .stackOverflow s.pc.toNat) :=
  (execCallNnn_eq nnn s).trans (if_neg (not_lt.mpr h))

theorem exec_ret_slot (s : State) (j : Fin 16) (h : s.sp.toNat = j.val + 1) :
    exec .ret s = .next { s with sp := BitVec.ofNat 8 j.val, pc := s.stack[j] } := by
  have hsp : s.sp - 1 = BitVec.ofNat 8 j.val := by
    rw [byte_eq_ofNat_of_toNat_eq h, BitVec.ofNat_add]
    exact BitVec.add_sub_cancel _ 1
  rw [exec, execRet_slot s j h, hsp]

/-- With the stack and SP of a call's next state, a return pops the address of that call (R105). -/
theorem exec_ret_of_called (nnn : Imm12) (s u : State) (j : Fin 16) (h : s.sp.toNat = j.val)
    (hstack : u.stack = (s.called nnn j).stack) (hsp : u.sp = (s.called nnn j).sp) :
    exec .ret u = .next { u with pc := s.pc, sp := s.sp } := by
  have hdepth : u.sp.toNat = j.val + 1 := by
    rw [hsp, State.called, BitVec.toNat_ofNat]
    omega
  have hslot : u.stack[j] = s.pc := by
    rw [hstack]
    exact Vector.getElem_set_self j.isLt
  rw [exec_ret_slot u j hdepth, hslot, ← byte_eq_ofNat_of_toNat_eq h]

end Sys2Proof.Machine

namespace Sys2Proof.Proofs

open Sys2Proof.Machine Sys2Proof.Claims

/-- Settles O16: the call writes its address into the first free slot, and the return reads that slot. -/
theorem returnLandsOnTheCall : Obligations.ReturnLandsOnTheCall := by
  intro nnn s hfree
  have hslot : s.sp.toNat = (⟨s.sp.toNat, hfree⟩ : Fin 16).val := rfl
  exact ⟨_, exec_callNnn_free nnn s _ hslot, fun u => exec_ret_of_called nnn s u _ hslot⟩

/-- Settles O10: the encoder's word for NOP is 0x0000, which is also the word of two zero bytes. -/
theorem nopAdvancesAndChangesNothingElse : Obligations.NopAdvancesAndChangesNothingElse := by
  refine ⟨fun w => decode_eq_nop_iff, fun w => decode_family0_error, fun s hhi hlo hpc => ?_, fun s => ?_⟩
  · apply s.fetchDecode_of_decode .nop hpc
    rw [hhi, hlo]
    exact decode_eq_nop_iff.mpr rfl
  · rw [pcPlus_eq]
    rfl

/-- Settles O11: a jump writes nnn to pc, which changes nothing where pc is nnn. -/
theorem jumpSetsPcToTheTarget : Obligations.JumpSetsPcToTheTarget := by
  refine ⟨fun w => decode_family1, fun nnn s => ?_, fun nnn s h => congrArg _ (s.setPc_zextImm_self nnn h),
    fun s hpc => s.fetch_error_mem_end (.inl hpc)⟩
  rw [← zextImm_eq_ofNat]
  rfl

/-- Settles O12, by the two outcomes of a call. -/
theorem callPushesItsOwnAddress : Obligations.CallPushesItsOwnAddress :=
  ⟨fun _ => decode_family2, fun nnn s => ⟨exec_callNnn_free nnn s, exec_callNnn_full nnn s⟩⟩

/-- Settles O13, by the outcomes of a return with a slot in use and with none. -/
theorem returnPopsTheNewestSlot : Obligations.ReturnPopsTheNewestSlot :=
  ⟨fun _ => decode_eq_ret_iff, fun s =>
    ⟨exec_ret_slot s, fun hempty => execRet_empty s (BitVec.eq_of_toNat_eq hempty)⟩⟩

/-- Settles O15: the jump writes pc alone, and the sum of nnn and V0 does not wrap. -/
theorem indexedJumpAddsV0 : Obligations.IndexedJumpAddsV0 :=
  ⟨fun _ => decode_familyB, fun nnn s => ⟨_, rfl, rfl, s.indexedTarget_toNat nnn⟩,
    fun s hpc => s.fetch_error_mem_end (.inr hpc)⟩

end Sys2Proof.Proofs

/-! # Proofs of the statements about the register skips (41_skips.md)

The four skips share one pc write, `State.skipIf`; they differ in the comparison alone, which the statement makes on the
numbers that the bytes hold. -/

namespace Sys2Proof

/-! ## Decoding the skip words -/

theorem decode_family3 {w : Word} (h : opField w = 0x3) : decode w = .ok (.seVxNn (xField w) (nnField w)) := by
  rw [decode, h]
  rfl

theorem decode_family4 {w : Word} (h : opField w = 0x4) : decode w = .ok (.sneVxNn (xField w) (nnField w)) := by
  rw [decode, h]
  rfl

/-- The low digit of a 5xyn word is 0, or the word is illegal (R112). -/
theorem decode_family5 {w : Word} (h : opField w = 0x5) :
    decode w = if nField w = 0 then .ok (.seVxVy (xField w) (yField w)) else .error (.illegalOpcode w) := by
  rw [decode, h]
  rfl

/-- The low digit of a 9xyn word is 0, or the word is illegal (R113). -/
theorem decode_family9 {w : Word} (h : opField w = 0x9) :
    decode w = if nField w = 0 then .ok (.sneVxVy (xField w) (yField w)) else .error (.illegalOpcode w) := by
  rw [decode, h]
  rfl

end Sys2Proof

namespace Sys2Proof.Machine

open Sys2Proof.Claims

/-! ## The pc write of a skip -/

/-- A skip writes pc alone, and its distance is 4 or 2 (R114). -/
theorem State.skipIf_eq_pcPlus (s : State) (c : Bool) :
    s.skipIf c = { s with pc := pcPlus s (if c then 4 else 2) } := by
  rw [pcPlus_eq]
  cases c with
  | false => rfl
  | true => exact congrArg s.setPc (BitVec.add_assoc s.pc Config.instrBytes Config.instrBytes)

/-- Skip where two bytes are equal: equal as numbers (R110, R112). -/
theorem State.skipIf_beq (s : State) (a b : Byte) :
    s.skipIf (a == b) = { s with pc := pcPlus s (if a.toNat = b.toNat then 4 else 2) } := by
  simp only [State.skipIf_eq_pcPlus, beq_iff_eq, BitVec.toNat_inj]

/-- Skip where two bytes differ: the distances of `State.skipIf_beq` change places (R111, R113). -/
theorem State.skipIf_bne (s : State) (a b : Byte) :
    s.skipIf (a != b) = { s with pc := pcPlus s (if a.toNat = b.toNat then 2 else 4) } := by
  simp only [State.skipIf_eq_pcPlus, bne_iff_ne, ne_eq, ite_not, BitVec.toNat_inj]

end Sys2Proof.Machine

namespace Sys2Proof.Proofs

open Sys2Proof.Machine Sys2Proof.Claims

/-- Settles O17: each skip is the shared pc write under its own comparison, and two bytes are equal exactly when their
numbers are. -/
theorem registerSkipsMoveFourOrTwo : Obligations.RegisterSkipsMoveFourOrTwo :=
  ⟨fun _ => decode_family3, fun _ => decode_family4, fun _ => decode_family5, fun _ => decode_family9,
    fun x y nn s =>
      ⟨congrArg _ (s.skipIf_beq (s.getV x) nn), congrArg _ (s.skipIf_bne (s.getV x) nn),
        congrArg _ (s.skipIf_beq (s.getV x) (s.getV y)), congrArg _ (s.skipIf_bne (s.getV x) (s.getV y))⟩⟩

end Sys2Proof.Proofs

/-! # Proofs of the statements about the register immediates (42_immediate.md)

Both instructions end in `State.writeResult`: what it leaves, with pc as the statements write it, is said once, and each
statement is left with the value that the destination takes. -/

namespace Sys2Proof

/-! ## Decoding the immediate words -/

theorem decode_family6 {w : Word} (h : opField w = 0x6) : decode w = .ok (.ldVxNn (xField w) (nnField w)) := by
  rw [decode, h]
  rfl

theorem decode_family7 {w : Word} (h : opField w = 0x7) : decode w = .ok (.addVxNn (xField w) (nnField w)) := by
  rw [decode, h]
  rfl

end Sys2Proof

namespace Sys2Proof.Machine

open Sys2Proof.Claims

/-! ## A result without a flag -/

/-- A result without a flag changes the registers and pc alone (R26 (a)). -/
theorem State.writeResult_frame (s : State) (x : Reg) (r : Byte) :
    s.writeResult x r = { s with v := (s.writeResult x r).v, pc := pcPlus s 2 } := by
  rw [pcPlus_eq]
  rfl

/-- The number a register holds after a result without a flag. -/
theorem State.num_writeResult (s : State) (x r : Reg) (b : Byte) :
    num (s.writeResult x b) r = if r = x then b.toNat else num s r := by
  rw [num, State.getV_writeResult, apply_ite BitVec.toNat, num]

end Sys2Proof.Machine

namespace Sys2Proof.Proofs

open Sys2Proof.Machine Sys2Proof.Claims

/-- Settles O19: the destination takes nn as a result without a flag. -/
theorem loadImmediateSetsTheRegister : Obligations.LoadImmediateSetsTheRegister :=
  ⟨fun _ => decode_family6, fun x nn s => ⟨_, rfl, s.writeResult_frame x nn, fun r => s.getV_writeResult x r nn⟩⟩

/-- Settles O20: the sum of two bytes is taken modulo 256, and it is a result without a flag, so VF is written only where
it is the destination. -/
theorem addImmediateWrapsWithoutFlag : Obligations.AddImmediateWrapsWithoutFlag := by
  refine ⟨fun _ => decode_family7, fun x nn s => ⟨_, rfl, s.writeResult_frame x _, fun r => ?_⟩⟩
  have hsum : (s.getV x + nn).toNat = (num s x + nn.toNat) % 256 := BitVec.toNat_add (s.getV x) nn
  rw [s.num_writeResult, hsum]

end Sys2Proof.Proofs

/-! # Proofs of the statements about the register-to-register ALU (43_alu.md)

The nine words of family 8 are decoded through the encoder. Every operation ends in `State.writeResult` or
`State.writeResultFlag`; what is left of each statement is the number of its result byte and of its flag. -/

namespace Sys2Proof

/-! ## Decoding the words of family 8 -/

/-- A word of family 8 decodes to the instruction that the encoder packs from its x, its y and its low digit (R71). -/
theorem decode_eq_ok_of_family8 {w : Word} {n : Nibble} {i : Instr} (hop : opField w = 0x8) (hn : nField w = n)
    (hi : encode i = packXyn 0x8 (xField w) (yField w) n) : decode w = .ok i :=
  decode_eq_ok_iff.mpr (hi.trans (packXyn_of_fields (congrArg BitVec.toNat hop) (congrArg BitVec.toNat hn)))

end Sys2Proof

namespace Sys2Proof.Machine

open Sys2Proof.Claims

/-! ## The result bytes and the flags as numbers -/

/-- A difference of bytes borrows 256 where it would go below 0 (R139 (d)). -/
theorem byte_sub_toNat (a b : Byte) :
    (a - b).toNat = if a.toNat ≥ b.toNat then a.toNat - b.toNat else a.toNat + 256 - b.toNat := by
  have ha := a.isLt
  have hb := b.isLt
  rw [BitVec.toNat_sub]
  split_ifs with h <;> omega

theorem byte_shiftRight_one_toNat (a : Byte) : (a >>> 1).toNat = a.toNat / 2 := by
  rw [BitVec.toNat_ushiftRight, Nat.shiftRight_eq_div_pow]

theorem byte_shiftLeft_one_toNat (a : Byte) : (a <<< 1).toNat = a.toNat * 2 % 256 := by
  rw [BitVec.toNat_shiftLeft, Nat.shiftLeft_eq]

/-- VF holds 1 exactly where the flag's condition holds (R22). -/
theorem flagByte_toNat_of_iff {f : Bool} {p : Prop} [Decidable p] (h : f = true ↔ p) :
    (flagByte f).toNat = if p then 1 else 0 := by
  rw [flagByte_eq, apply_ite BitVec.toNat]
  exact if_congr h rfl rfl

theorem flagByte_lowBit_toNat (a : Byte) : (flagByte (lowBit a)).toNat = a.toNat % 2 := by
  rw [flagByte_toNat_of_iff (lowBit_iff a)]
  split_ifs with h <;> omega

theorem flagByte_highBit_toNat (a : Byte) : (flagByte (highBit a)).toNat = a.toNat / 128 := by
  have ha := a.isLt
  rw [flagByte_toNat_of_iff (highBit_iff a)]
  split_ifs with h <;> omega

/-! ## A result without a flag -/

/-- The destination holds the result, bit by bit. -/
theorem State.getLsbD_writeResult_self (s : State) (x : Reg) (b : Byte) (k : Nat) :
    ((s.writeResult x b).getV x).getLsbD k = b.getLsbD k := by
  rw [State.getV_writeResult, if_pos rfl]

/-- A result without a flag keeps every register but its destination. -/
theorem State.getV_writeResult_of_ne (s : State) {x r : Reg} (b : Byte) (h : r ≠ x) :
    (s.writeResult x b).getV r = s.getV r := by
  rw [State.getV_writeResult, if_neg h]

/-! ## A result with a flag -/

/-- A result with a flag changes the registers and pc alone (R26 (a)). -/
theorem State.writeResultFlag_frame (s : State) (x : Reg) (b : Byte) (f : Bool) :
    s.writeResultFlag x b f = { s with v := (s.writeResultFlag x b f).v, pc := pcPlus s 2 } := by
  rw [pcPlus_eq]
  rfl

/-- The number a register holds after a result with a flag: in VF the flag, even where VF is the destination
(R23, decision D8). -/
theorem State.num_writeResultFlag (s : State) (x r : Reg) (b : Byte) (f : Bool) :
    num (s.writeResultFlag x b f) r =
      if r = vf then (flagByte f).toNat else if r = x then b.toNat else num s r := by
  rw [num, State.getV_writeResultFlag, apply_ite BitVec.toNat, apply_ite BitVec.toNat, num]

/-- What a subtraction leaves, whichever of Vx and Vy is taken from the other (R135, R137). -/
theorem State.num_writeResultFlag_sub (s : State) (x r : Reg) (a b : Byte) :
    num (s.writeResultFlag x (a - b) (noBorrow a b)) r =
      if r = vf then (if a.toNat ≥ b.toNat then 1 else 0)
      else if r = x then (if a.toNat ≥ b.toNat then a.toNat - b.toNat else a.toNat + 256 - b.toNat)
      else num s r := by
  rw [s.num_writeResultFlag, flagByte_toNat_of_iff (noBorrow_iff a b), byte_sub_toNat]

end Sys2Proof.Machine

namespace Sys2Proof.Proofs

open Sys2Proof.Machine Sys2Proof.Claims

/-- Settles O23: the sum of two bytes is taken modulo 256, and the flag is the carry of the exact sum. -/
theorem addSetsTheCarry : Obligations.AddSetsTheCarry := by
  refine ⟨fun _ hop hn => decode_eq_ok_of_family8 hop hn rfl,
    fun x y s => ⟨_, rfl, s.writeResultFlag_frame x _ _, fun r => ?_⟩⟩
  have hsum : (s.getV x + s.getV y).toNat = (num s x + num s y) % 256 := BitVec.toNat_add (s.getV x) (s.getV y)
  rw [s.num_writeResultFlag, flagByte_toNat_of_iff (carryOut_iff _ _), hsum]
  rfl

/-- Settles O24: the two subtractions are one, with Vx and Vy in either order. -/
theorem subtractSetsNoBorrow : Obligations.SubtractSetsNoBorrow :=
  ⟨fun _ hop hn => decode_eq_ok_of_family8 hop hn rfl, fun _ hop hn => decode_eq_ok_of_family8 hop hn rfl,
    fun x y s => ⟨_, _, rfl, rfl, s.writeResultFlag_frame x _ _, s.writeResultFlag_frame x _ _,
      fun r => s.num_writeResultFlag_sub x r (s.getV x) (s.getV y),
      fun r => s.num_writeResultFlag_sub x r (s.getV y) (s.getV x)⟩⟩

/-- Settles O25: a shift by one halves or doubles the number, and the bit that leaves is its remainder by 2 or its
quotient by 128; the meaning of a shift does not mention y, so any z gives the same next state. -/
theorem shiftsMoveOneBitIntoVF : Obligations.ShiftsMoveOneBitIntoVF := by
  refine ⟨fun _ hop hn => decode_eq_ok_of_family8 hop hn rfl, fun _ hop hn => decode_eq_ok_of_family8 hop hn rfl,
    fun x y z s => ⟨_, _, rfl, rfl, rfl, rfl, s.writeResultFlag_frame x _ _, s.writeResultFlag_frame x _ _,
      fun r => ?_, fun r => ?_⟩⟩
  · rw [s.num_writeResultFlag, flagByte_lowBit_toNat, byte_shiftRight_one_toNat]
    rfl
  · rw [s.num_writeResultFlag, flagByte_highBit_toNat, byte_shiftLeft_one_toNat]
    rfl

/-- Settles O21: the destination takes Vy as a result without a flag. -/
theorem copyRegisterSetsVx : Obligations.CopyRegisterSetsVx :=
  ⟨fun _ hop hn => decode_eq_ok_of_family8 hop hn rfl,
    fun x y s => ⟨_, rfl, s.writeResult_frame x _, fun r => s.getV_writeResult x r (s.getV y)⟩⟩

/-- Settles O22: the three operations are results without a flag, and the bits of the result are those of the library's
bitwise operations. -/
theorem logicWorksBitByBit : Obligations.LogicWorksBitByBit := by
  refine ⟨fun _ hop hn => decode_eq_ok_of_family8 hop hn rfl, fun _ hop hn => decode_eq_ok_of_family8 hop hn rfl,
    fun _ hop hn => decode_eq_ok_of_family8 hop hn rfl,
    fun x y s => ⟨_, _, _, rfl, rfl, rfl, s.writeResult_frame x _, s.writeResult_frame x _, s.writeResult_frame x _,
      fun r hr => ?_, fun k _ => ?_⟩⟩
  · exact ⟨s.getV_writeResult_of_ne _ hr, s.getV_writeResult_of_ne _ hr, s.getV_writeResult_of_ne _ hr⟩
  · exact ⟨(s.getLsbD_writeResult_self x _ k).trans BitVec.getLsbD_or,
      (s.getLsbD_writeResult_self x _ k).trans BitVec.getLsbD_and,
      (s.getLsbD_writeResult_self x _ k).trans BitVec.getLsbD_xor⟩

end Sys2Proof.Proofs

/-! # Proofs of the statements about the index register and the memory transfers (44_index_memory.md)

The three transfers go through their equations in Laws/Exec.lean: out of range they raise one fault, in range they store
or load one block at I. What is left is what the block leaves in memory or in the registers. -/

namespace Sys2Proof

/-! ## Decoding the words of families A and F -/

theorem decode_familyA {w : Word} (h : opField w = 0xA) : decode w = .ok (.ldINnn (nnnField w)) := by
  rw [decode, h]
  rfl

/-- A word of family F decodes to the instruction that the encoder packs from its x and its low byte (R71, R75). -/
theorem decode_eq_ok_of_familyF {w : Word} {nn : Byte} {i : Instr} (hop : opField w = 0xF) (hnn : nnField w = nn)
    (hi : encode i = packXnn 0xF (xField w) nn) : decode w = .ok i :=
  decode_eq_ok_iff.mpr (hi.trans (packXnn_of_fields (congrArg BitVec.toNat hop) (congrArg BitVec.toNat hnn)))

end Sys2Proof

namespace Sys2Proof.Machine

open Sys2Proof.Claims

/-! ## Moving on, and the sum of Fx1E -/

/-- The pc write of every instruction that neither skips nor jumps (R26 (a)). -/
theorem State.advance_eq_pcPlus (s : State) : s.advance = { s with pc := pcPlus s 2 } := by
  rw [pcPlus_eq]
  rfl

/-- A sum with a byte wraps at 16 bits (R151). -/
theorem word_add_zextByte (a : Word) (b : Byte) :
    a + zextByte b = BitVec.ofNat 16 ((a.toNat + b.toNat) % 65536) := by
  have hb : (zextByte b).toNat = b.toNat := BitVec.toNat_setWidth_of_le (by decide)
  apply BitVec.eq_of_toNat_eq
  rw [BitVec.toNat_add, hb, BitVec.toNat_ofNat, Nat.mod_mod]

/-! ## One block at I -/

/-- A block whose last address is at or above 4096 does not fit (R60). -/
theorem not_block_fits {base last : Nat} (h : Config.memSize ≤ base + last) :
    ¬ base + (last + 1) ≤ Config.memSize :=
  Nat.not_le_of_lt (Nat.lt_succ_of_le h)

/-- After a block is stored at `base`, byte k of it reads at `base + k` (R60). -/
theorem Memory.readByte_writeBlock_of_getElem (m : Memory) (base : Nat) {bytes : List Byte} {k : Nat} {b : Byte}
    (h : bytes[k]? = some b) : (m.writeBlock base bytes).readByte (base + k) = b := by
  rw [Memory.readByte_writeBlock, if_pos (Nat.le_add_right _ _), Nat.add_sub_cancel_left, h, Option.getD_some]

/-- A decimal digit of a byte fits in its own byte, so the digits stored at `base` read back as numbers (R153). -/
theorem Memory.readByte_writeBlock_bcdDigits (m : Memory) (base : Nat) (a : Byte) :
    ((m.writeBlock base (bcdDigits a)).readByte base).toNat = a.toNat / 100 ∧
    ((m.writeBlock base (bcdDigits a)).readByte (base + 1)).toNat = a.toNat / 10 % 10 ∧
    ((m.writeBlock base (bcdDigits a)).readByte (base + 2)).toNat = a.toNat % 10 := by
  have ha := a.isLt
  have hread {k n : Nat} (hk : (bcdDigits a)[k]? = some (BitVec.ofNat 8 n)) (hn : n < 256) :
      ((m.writeBlock base (bcdDigits a)).readByte (base + k)).toNat = n := by
    rw [m.readByte_writeBlock_of_getElem base hk, BitVec.toNat_ofNat, Nat.mod_eq_of_lt hn]
  exact ⟨hread (k := 0) rfl (by omega), hread (k := 1) rfl (by omega), hread (k := 2) rfl (by omega)⟩

/-- Loading `blockLength x` bytes from `base` fills V0 to Vx and keeps the registers above x (R155). -/
theorem State.getV_setVBlock_readBlock (s : State) (m : Memory) (base : Nat) (x r : Reg) :
    (s.setVBlock (m.readBlock base (blockLength x))).getV r =
      if r ≤ x then m.readByte (base + r.val) else s.getV r := by
  have hr : r.val < blockLength x ↔ r ≤ x := Nat.lt_succ_iff
  rw [State.getV_setVBlock, Memory.readBlock_getElem]
  simp only [hr]
  split_ifs <;> rfl

/-- Loading bytes and moving on changes the registers and pc alone (R155, R26 (a)). -/
theorem State.advance_setVBlock_frame (s : State) (bytes : List Byte) :
    (s.setVBlock bytes).advance = { s with v := (s.setVBlock bytes).advance.v, pc := pcPlus s 2 } := by
  obtain ⟨v, hv⟩ : ∃ v, s.setVBlock bytes = { s with v := v } := ⟨_, rfl⟩
  rw [hv]
  exact State.advance_eq_pcPlus _

end Sys2Proof.Machine

namespace Sys2Proof.Proofs

open Sys2Proof.Machine Sys2Proof.Claims

/-- Settles O29: in range the block of three digits stands at I, and the digits of a number below 256 add up to it. -/
theorem decimalDigitsAreStored : Obligations.DecimalDigitsAreStored := by
  refine ⟨fun _ hop hnn => decode_eq_ok_of_familyF hop hnn rfl, fun x s => ⟨fun hfit => ?_, fun hbad =>
    (execLdBVx_eq x s).trans (if_neg (not_block_fits hbad))⟩⟩
  obtain ⟨hh, hd, hu⟩ := s.mem.readByte_writeBlock_bcdDigits s.i.toNat (s.getV x)
  refine ⟨_, _, _, _, (execLdBVx_eq x s).trans (if_pos hfit), (s.setMem _).advance_eq_pcPlus, ?_, ?_, ?_, hh, hd, hu,
    fun a ha => Memory.readByte_writeBlock_outside _ _ _ a ha, fun hm => Memory.wf_writeBlock _ _ _ hm hfit⟩
  · rw [num]
    omega
  · omega
  · omega

/-- Settles O30: in range the block V0 to Vx stands at I, and a block of `x + 1` bytes touches no address outside. -/
theorem storeWritesV0ToVx : Obligations.StoreWritesV0ToVx := by
  refine ⟨fun _ hop hnn => decode_eq_ok_of_familyF hop hnn rfl, fun x s => ⟨fun hfit => ?_, fun hbad =>
    (execLdMemVx_eq x s).trans (if_neg (not_block_fits hbad))⟩⟩
  have hlen : (s.vBlock x).length = x.val + 1 := s.vBlock_length x
  exact ⟨_, (execLdMemVx_eq x s).trans (if_pos hfit), (s.setMem _).advance_eq_pcPlus,
    fun k hk => s.readByte_writeBlock_vBlock _ _ x k hk,
    fun a ha => Memory.readByte_writeBlock_outside _ _ _ a (by rwa [hlen]),
    fun hm => Memory.wf_writeBlock _ _ _ hm (by rwa [hlen])⟩

/-- Settles O31, by the register file after a block is loaded; the registers and pc are all that is written. -/
theorem loadFillsV0ToVx : Obligations.LoadFillsV0ToVx := by
  refine ⟨fun _ hop hnn => decode_eq_ok_of_familyF hop hnn rfl, fun x s => ⟨fun hfit => ?_, fun hbad =>
    (execLdVxMem_eq x s).trans (if_neg (not_block_fits hbad))⟩⟩
  exact ⟨_, (execLdVxMem_eq x s).trans (if_pos hfit), s.advance_setVBlock_frame _,
    fun r => (State.getV_advance _ r).trans (s.getV_setVBlock_readBlock s.mem s.i.toNat x r)⟩

/-- Settles O32: the store keeps I, so the load reads the bytes that the store left there. -/
theorem storeThenLoadGivesTheRegistersBack : Obligations.StoreThenLoadGivesTheRegistersBack := by
  intro x s hfit
  obtain ⟨-, hstores⟩ := storeWritesV0ToVx
  obtain ⟨-, hloads⟩ := loadFillsV0ToVx
  obtain ⟨t, ht, hframe, hmem, -⟩ := (hstores x s).1 hfit
  have hi : t.i = s.i := congrArg (·.i) hframe
  refine ⟨t, ht, fun v => ?_⟩
  obtain ⟨u, hu, -, hload⟩ := (hloads x { t with v := v }).1 (by rwa [hi])
  refine ⟨u, hu, fun r => ?_⟩
  rw [hload]
  split_ifs with hr
  · rw [hi, hmem r hr]
  · rfl

/-- Settles O26: I takes nnn, of which the zero extension is the same number. -/
theorem loadIndexSetsI : Obligations.LoadIndexSetsI := by
  refine ⟨fun _ => decode_familyA, fun nnn s => ?_⟩
  rw [← zextImm_eq_ofNat]
  exact congrArg _ (s.setI _).advance_eq_pcPlus

/-- Settles O27: I takes the sum modulo 65536, and I and pc are all that is written. -/
theorem addIndexWrapsAtSixteenBits : Obligations.AddIndexWrapsAtSixteenBits := by
  refine ⟨fun _ hop hnn => decode_eq_ok_of_familyF hop hnn rfl, fun x s => ?_⟩
  rw [num, ← word_add_zextByte]
  exact congrArg _ (s.setI _).advance_eq_pcPlus

/-- Settles O28: I takes the open parameter's value at Vx, so equal bytes give equal addresses. -/
theorem fontAddressDependsOnVxAlone : Obligations.FontAddressDependsOnVxAlone := by
  refine ⟨fun _ hop hnn => decode_eq_ok_of_familyF hop hnn rfl,
    fun x s => congrArg _ (s.setI _).advance_eq_pcPlus, fun x y s q t u heq ht hu => ?_⟩
  cases ht
  cases hu
  exact congrArg Config.fontAddr heq

end Sys2Proof.Proofs

/-! # Proofs of the statements about the timers (45_timers.md)

Fx07 is a result without a flag, Fx15 and Fx18 set one timer and move on, and a tick is one truncated subtraction for each
timer. The speaker output is read off ST by `State.speaker_iff`. -/

namespace Sys2Proof.Machine

/-- One timer's share of a tick takes 1 off, and 0 stays 0 (R163, decision D14). -/
theorem tickTimer_toNat (b : Byte) : (tickTimer b).toNat = b.toNat - 1 := by
  by_cases h : b = 0
  · rw [tickTimer, if_pos h, h]
    rfl
  · rw [tickTimer, if_neg h, sp_sub_one_toNat b h]

/-- After a tick the speaker is on exactly when ST was above 1 (R30, R163). -/
theorem State.speaker_timerTick_iff (s : State) : s.timerTick.speaker = true ↔ 1 < s.st.toNat := by
  rw [State.speaker_iff, State.timerTick_st, tickTimer_toNat, Nat.sub_pos_iff_lt]

/-- A step whose next move is a tick takes that move from the script and ticks (R163; log entry 2). -/
theorem step_of_nextMove_tick {s : State} (h : s.nextMove = .tick) : step s = .next s.popScript.timerTick := by
  rw [step, h, hostMove]

end Sys2Proof.Machine

namespace Sys2Proof.Proofs

open Sys2Proof.Machine Sys2Proof.Claims

/-- Settles O34: Vx takes DT as a result without a flag. -/
theorem readDelayTimerCopiesDT : Obligations.ReadDelayTimerCopiesDT :=
  ⟨fun _ hop hnn => decode_eq_ok_of_familyF hop hnn rfl,
    fun x s => ⟨_, rfl, s.writeResult_frame x s.dt, fun r => s.getV_writeResult x r s.dt⟩⟩

/-- Settles O35: each instruction sets its timer and moves on, and after Fx18 the ST that the speaker follows is Vx. -/
theorem setTimersCopiesVx : Obligations.SetTimersCopiesVx :=
  ⟨fun _ hop hnn => decode_eq_ok_of_familyF hop hnn rfl, fun _ hop hnn => decode_eq_ok_of_familyF hop hnn rfl,
    fun x s => ⟨congrArg _ (s.setDt (s.getV x)).advance_eq_pcPlus,
      _, rfl, (s.setSt (s.getV x)).advance_eq_pcPlus, State.speaker_iff _⟩⟩

/-- Settles O37: the step is one tick of the state with its script moved on, and a tick writes the two timers alone. -/
theorem tickCountsBothTimersDown : Obligations.TickCountsBothTimersDown := fun s hmove =>
  ⟨s.popScript.timerTick, step_of_nextMove_tick hmove, rfl, tickTimer_toNat s.dt, tickTimer_toNat s.st,
    s.popScript.speaker_timerTick_iff, rfl⟩

end Sys2Proof.Proofs

/-! # Proofs of the statements about the instructions that ask a collaborator (46_io.md)

Every question is answered in one way, `headD_tail_of_eq_cons`: the scripted answer is taken, and the rest of the script
stays. What an instruction then does with the answer is a result without a flag, a skip, or a hold, whose rules stand
above; each statement puts the two together. -/

namespace Sys2Proof

/-! ## Decoding the words of families C, D and E -/

theorem decode_eq_cls_iff {w : Word} : decode w = .ok .cls ↔ w = 0x00E0 :=
  decode_eq_ok_iff.trans eq_comm

theorem decode_familyC {w : Word} (h : opField w = 0xC) : decode w = .ok (.rndVxNn (xField w) (nnField w)) := by
  rw [decode, h]
  rfl

theorem decode_familyD {w : Word} (h : opField w = 0xD) :
    decode w = .ok (.drwVxVyN (xField w) (yField w) (nField w)) := by
  rw [decode, h]
  rfl

end Sys2Proof

namespace Sys2Proof.Machine

open Sys2Proof.Claims

/-! ## The answers -/

/-- A scripted answer is the one given, and the rest of the script stays (R177; log entry 1). -/
theorem headD_tail_of_eq_cons {α : Type} {answers rest : List α} {a : α} (free : α) (h : answers = a :: rest) :
    answers.headD free = a ∧ answers.tail = rest := by
  rw [h]
  exact ⟨rfl, rfl⟩

/-- A byte without a bit outside the mask is its own masked value (R171). -/
theorem byte_and_eq_self {b nn : Byte} (h : b &&& ~~~nn = 0) : b &&& nn = b := by
  calc b &&& nn = b &&& nn ||| b &&& ~~~nn := h ▸ BitVec.or_zero.symm
    _ = b &&& (nn ||| ~~~nn) := BitVec.and_or_distrib_left.symm
    _ = b := by rw [BitVec.or_not_self, BitVec.and_allOnes]

/-- A key code is the same number in a byte (R175). -/
theorem zextKey_toNat (k : Nibble) : (zextKey k).toNat = k.toNat :=
  BitVec.toNat_setWidth_of_le (by decide)

/-! ## What is done with an answer -/

/-- A skip after a question writes pc, and of the rest only the world around CORE has changed (R173, R174). -/
theorem State.skipIf_askKeyDown (s : State) (k : Byte) (c : Bool) :
    (s.askKeyDown k).skipIf c = { s with pc := pcPlus s (if c then 4 else 2), env := (s.askKeyDown k).env } :=
  State.skipIf_eq_pcPlus _ c

/-- A result after a question writes the registers and pc, and of the rest only the world around CORE has changed
(R26 (a)). -/
theorem State.writeResult_frame_of_sameCore {s q : State} (h : s.SameCore q) (x : Reg) (b : Byte) :
    q.writeResult x b = { s with v := (q.writeResult x b).v, pc := pcPlus s 2, env := q.env } := by
  rw [h.eq_with_env]
  exact State.writeResult_frame _ x b

/-! ## How many requests -/

/-- An instruction that asks nobody leaves the world around CORE as it is (R176). -/
theorem exec_keeps_env {i : Instr} {s t : State} (h : exec i s = .next t) (ha : ¬ asks i) : t.env = s.env := by
  have ht : t = { t with env := s.env } := Host.Outcome.next.inj (h.symm.trans (exec_with_env h ha s.env))
  rw [ht]

/-- The six instructions that ask issue one request, and Dxyn none where its sprite is out of range (R176). -/
theorem exec_requests_of_asks {i : Instr} {s t : State} (h : exec i s = .next t) (ha : asks i) :
    t.env.requests = s.env.requests ∨ ∃ q, t.env.requests = q :: s.env.requests := by
  rcases asks_cases ha with rfl | ⟨x, nn, rfl⟩ | ⟨x, y, n, rfl⟩ | ⟨x, rfl⟩ | ⟨x, rfl⟩ | ⟨x, rfl⟩
  · cases h
    exact .inr ⟨.displayClear, rfl⟩
  · cases h
    exact .inr ⟨.randomByte, rfl⟩
  · rw [exec, execDrwVxVyN_eq] at h
    split_ifs at h <;> cases h
    · exact .inr ⟨.displayDraw (s.getV x) (s.getV y) (s.mem.readBlock s.i.toNat n.toNat), rfl⟩
    · exact .inl rfl
  · cases h
    exact .inr ⟨.keyDown (s.getV x), by rw [State.skipIf_env]; rfl⟩
  · cases h
    exact .inr ⟨.keyDown (s.getV x), by rw [State.skipIf_env]; rfl⟩
  · cases h
    exact .inr ⟨.keyWait, by rw [State.takeKey_env]; rfl⟩

end Sys2Proof.Machine

namespace Sys2Proof.Proofs

open Sys2Proof.Machine Sys2Proof.Claims

/-- Settles O39: Vx takes the masked answer as a result without a flag; a value within the mask is the result where it is
itself the scripted answer. -/
theorem randomByteIsMasked : Obligations.RandomByteIsMasked := by
  refine ⟨fun _ => decode_familyC, fun x nn s => ?_, fun x nn b s hb => ?_⟩
  · exact ⟨_, rfl, State.writeResult_frame_of_sameCore s.askRandom_sameCore x _, rfl, rfl,
      fun r => s.askRandom.getV_writeResult x r _, fun _ _ hscript => headD_tail_of_eq_cons _ hscript⟩
  · refine ⟨{ s.env with randomBytes := [b] }, _, rfl, ?_⟩
    rw [State.getV_writeResult, if_pos rfl]
    exact byte_and_eq_self hb

/-- Settles O40: in range the bytes sent are the block at I, and VF takes the answer as a result without a flag; out of
range the fault is raised in the state the instruction began in. -/
theorem drawSendsTheSpriteAndTakesTheCollision : Obligations.DrawSendsTheSpriteAndTakesTheCollision := by
  refine ⟨fun _ => decode_familyD, fun x y n s => ⟨fun hfit => ?_, fun hn hbad => ?_⟩⟩
  · refine ⟨_, s.mem.readBlock s.i.toNat n.toNat, (execDrwVxVyN_eq x y n s).trans (if_pos hfit),
      State.writeResult_frame_of_sameCore (s.askDraw_sameCore _ _ _) vf _, Memory.readBlock_length _ _ _,
      fun k hk => (Memory.readBlock_getElem _ _ _ k).trans (if_pos hk), rfl, fun r => ?_,
      fun _ _ hscript => headD_tail_of_eq_cons _ hscript⟩
    rw [State.num_writeResult, flagByte_toNat_of_iff Iff.rfl]
    rfl
  · exact (execDrwVxVyN_eq x y n s).trans (if_neg (not_or_intro hn (Nat.not_le_of_lt hbad)))

/-- Settles O42: the six that ask issue one request or none, and the others keep the world around CORE whole. -/
theorem atMostOneRequestPerCycle : Obligations.AtMostOneRequestPerCycle := by
  intro i s t h
  refine ⟨?_, exec_keeps_env h⟩
  by_cases ha : asks i
  · exact exec_requests_of_asks h ha
  · exact .inl (congrArg Env.requests (exec_keeps_env h ha))

/-- Settles O18: both skips ask for the key Vx, one skips on the answer and the other on its negation. -/
theorem keySkipsFollowTheAnswer : Obligations.KeySkipsFollowTheAnswer := by
  intro x s
  refine ⟨_, _, congrArg Host.Outcome.next (s.skipIf_askKeyDown _ _),
    congrArg Host.Outcome.next (s.skipIf_askKeyDown _ _), rfl, ?_, rfl, fun _ _ hscript => headD_tail_of_eq_cons _ hscript⟩
  cases s.keyDownAnswer (s.getV x) <;> rfl

/-- Settles O38: the encoder's word for CLS is 0x00E0, and the request is recorded before pc moves on. -/
theorem clearIssuesOneRequest : Obligations.ClearIssuesOneRequest :=
  ⟨fun _ => decode_eq_cls_iff, fun s => congrArg _ s.askClear.advance_eq_pcPlus⟩

/-- Settles O41: without a key the question is all that happens, and a key goes to Vx as a result without a flag. -/
theorem keyWaitHoldsUntilAKeyComes : Obligations.KeyWaitHoldsUntilAKeyComes := by
  refine ⟨fun _ hop hnn => decode_eq_ok_of_familyF hop hnn rfl, fun x s => ⟨_, rfl, ?_, fun hnone => ?_,
    fun k hkey => ?_, fun _ _ hscript => ?_⟩⟩
  · rw [State.takeKey_env]
    rfl
  · rw [hnone]
    exact s.askKeyWait_sameCore
  · rw [hkey]
    refine ⟨State.writeResult_frame_of_sameCore s.askKeyWait_sameCore x _, fun r => ?_⟩
    rw [State.takeKey, State.num_writeResult, zextKey_toNat]
    rfl
  · rw [State.takeKey_env]
    exact headD_tail_of_eq_cons _ hscript

end Sys2Proof.Proofs

/-! # Proofs of the statements about faults and halting (60_exceptions.md)

Which trap an instruction raises, and when, is said once, as a relation (`Raises`, tied to the model by
`exec_raises_of_halted`); that faults are precise and that six instructions alone fault are read off it. The faults of a
cycle are those of fetch and decode, and the progress of a step is that of an instruction with SP at most 16. -/

namespace Sys2Proof.Machine

open Sys2Proof.Claims

/-! ## The faults of an instruction -/

/-- How many bytes from I on an instruction reads or writes (R60). -/
def accessLength : Instr → Nat
  | .drwVxVyN _ _ n => n.toNat
  | .ldBVx _ => 3
  | .ldMemVx x | .ldVxMem x => blockLength x
  | _ => 0

/-- The traps an instruction run in `s` raises (R200, R214). -/
inductive Raises (s : State) : Instr → Trap → Prop
  /-- A return with no slot in use (R212). -/
  | underflow (hsp : s.sp = 0) : Raises s .ret (.stackUnderflow s.pc)
  /-- A call with no free slot (R213). -/
  | overflow (nnn : Imm12) (hsp : Config.stackDepth ≤ s.sp.toNat) : Raises s (.callNnn nnn) (.stackOverflow s.pc)
  /-- A transfer of one byte or more that leaves the 4096 bytes (R210). -/
  | range (i : Instr) (hlen : accessLength i ≠ 0) (hbad : Config.memSize < s.i.toNat + accessLength i) :
      Raises s i (.memRange (max s.i.toNat Config.memSize))

/-- The four instructions that transfer bytes at I; Dxyn does so where n is not 0 (R220). -/
theorem accessLength_cases {i : Instr} (h : accessLength i ≠ 0) :
    (∃ x y n, i = .drwVxVyN x y n ∧ n.toNat ≠ 0 ∧ accessLength i = n.toNat) ∨
      (∃ x, i = .ldBVx x ∧ accessLength i = 3) ∨
      (∃ x, i = .ldMemVx x ∧ accessLength i = x.val + 1) ∨ ∃ x, i = .ldVxMem x ∧ accessLength i = x.val + 1 := by
  cases i with
  | drwVxVyN x y n => exact .inl ⟨x, y, n, rfl, h, rfl⟩
  | ldBVx x => exact .inr (.inl ⟨x, rfl, rfl⟩)
  | ldMemVx x => exact .inr (.inr (.inl ⟨x, rfl, rfl⟩))
  | ldVxMem x => exact .inr (.inr (.inr ⟨x, rfl, rfl⟩))
  | _ => exact absurd rfl h

/-- The instructions with a single outcome leave the latch as it is. -/
theorem exec_keeps_halted_of_not_mayStop {i : Instr} {s t : State} (hi : ¬ mayStop i) (h : exec i s = .next t) :
    t.halted = s.halted := by
  cases i
  case ret | callNnn | ldBVx | ldMemVx | ldVxMem | drwVxVyN => exact absurd trivial hi
  all_goals cases h
  case seVxNn | sneVxNn | seVxVy | sneVxVy | skpVx | sknpVx => exact State.skipIf_halted _ _
  case ldVxK x => cases s.keyWaitAnswer <;> rfl
  all_goals rfl

/-- An instruction leaves the latch as it is, or raises one of its traps in the state it began in (R201). -/
theorem exec_keeps_halted_or_raises (i : Instr) (s t : State) (h : exec i s = .next t) :
    t.halted = s.halted ∨ ∃ c, Raises s i c ∧ t = s.raise c := by
  revert i t
  apply exec_next_cases (fun i s t => t.halted = s.halted ∨ ∃ c, Raises s i c ∧ t = s.raise c) s
  case ret_empty => exact fun hsp => .inr ⟨_, .underflow hsp, rfl⟩
  case call_full => exact fun nnn hfull => .inr ⟨_, .overflow nnn (not_lt.mp hfull), rfl⟩
  case bcd_bad | store_bad | load_bad =>
    exact fun x hbad => .inr ⟨_, .range _ (Nat.succ_ne_zero _) (not_le.mp hbad), rfl⟩
  case draw_bad =>
    intro x y n hbad
    obtain ⟨hlen, hout⟩ := not_or.mp hbad
    exact .inr ⟨_, .range _ hlen (not_le.mp hout), rfl⟩
  case others => exact fun i t hi h => .inl (exec_keeps_halted_of_not_mayStop hi h)
  case ret_slot | call_free | bcd_ok | store_ok | load_ok => exact fun _ _ => .inl rfl
  case draw_ok => exact fun _ _ _ _ => .inl rfl

/-- An instruction that begins running and ends halted has raised one of its traps. -/
theorem exec_raises_of_halted {i : Instr} {s t : State} (hrun : s.halted = false) (h : exec i s = .next t)
    (hhalt : t.halted = true) : ∃ c, Raises s i c ∧ t = s.raise c := by
  rcases exec_keeps_halted_or_raises i s t h with hkept | hraises
  · exact absurd ((hkept.trans hrun).symm.trans hhalt) Bool.false_ne_true
  · exact hraises

/-! ## The faults of a cycle -/

theorem State.fetchDecode_of_fetch_error {s : State} {c : Trap} (h : s.fetch = .error c) :
    s.fetchDecode = .error c := by
  rw [State.fetchDecode, h]

/-- A word that is no instruction is recorded with its fault (R211). -/
theorem State.fetchDecode_of_decode_error {s : State} {e : DecodeError} (hpc : s.pc.toNat + 1 < Config.memSize)
    (h : decode (wordAtPc s) = .error e) : s.fetchDecode = .error (.illegalOpcode (wordAtPc s)) := by
  have hfetch : s.fetch = .ok (wordAtPc s) := s.fetch_eq.trans (if_pos hpc)
  rw [State.fetchDecode, hfetch]
  simp only [h]

/-- A word outside the opcode map does not decode (R80). -/
theorem decode_of_not_legalWord {w : Word} (h : legalWord w = false) : decode w = .error (.illegalOpcode w) :=
  decode_of_not_covered fun r hr hcovered => List.any_eq_false.mp h r hr (beq_iff_eq.mpr hcovered)

/-! ## Halted steps and progress -/

/-- While halted, every step but a reset keeps the latch, the registers, pc and the stack (R204, R205). -/
theorem step_frame_of_halted {s t : State} (hhalt : s.halted = true) (h : step s = .next t)
    (hmove : s.nextMove ≠ .reset) :
    ∃ dt st m e, t = { s with dt := dt, st := st, mem := m, env := e } := by
  rcases step_cases s with ⟨-, e⟩ | ⟨-, e⟩ | ⟨hreset, -⟩ | ⟨a, b, -, e⟩
  · rw [e, cycle_halted s.popScript hhalt] at h
    cases h
    exact ⟨_, _, _, _, rfl⟩
  · rw [e] at h
    cases h
    exact ⟨_, _, _, _, rfl⟩
  · exact absurd hreset hmove
  · rw [e] at h
    obtain ⟨-, -, rfl⟩ := loaderWrite_next s.popScript t a b h
    exact ⟨_, _, _, _, rfl⟩

/-- With SP at most 16 every instruction has a next state: a return without a slot is the only other outcome (R28). -/
theorem exec_next_of_sp_le (i : Instr) {s : State} (hsp : s.sp.toNat ≤ Config.stackDepth) :
    ∃ t, exec i s = .next t := by
  by_cases hi : mayStop i
  · cases i with
    | ret =>
      rcases execRet_cases s with ⟨-, e⟩ | ⟨j, -, e⟩ | ⟨hnone, -⟩
      · exact ⟨_, e⟩
      · exact ⟨_, e⟩
      · exact absurd hsp (not_le.mpr hnone)
    | callNnn | ldBVx | ldMemVx | ldVxMem | drwVxVyN => exact complete_next s _
    | _ => exact hi.elim
  · exact exec_next_of_not_mayStop i s hi

theorem cycle_next_of_sp_le {s : State} (hsp : s.sp.toNat ≤ Config.stackDepth) : ∃ t, cycle s = .next t := by
  rcases cycle_cases s with ⟨-, e⟩ | ⟨i, -, -, e⟩ | ⟨c, -, -, e⟩
  · exact ⟨_, e⟩
  · rw [e]
    exact exec_next_of_sp_le i hsp
  · exact ⟨_, e⟩

/-- A loader that keeps its contract places its byte (R256). -/
theorem loaderWrite_eq_next {s : State} {a : Nat} (b : Byte) (hopen : s.env.started = false) (ha : a < Config.memSize) :
    loaderWrite s a b = .next (s.setMem (s.mem.writeByte a b)) := by
  rw [loaderWrite, if_neg (ne_true_of_eq_false hopen), memWrite_ok _ a b ha]

end Sys2Proof.Machine

namespace Sys2Proof.Proofs

open Sys2Proof.Machine Sys2Proof.Claims

/-- Settles O44: the trap is raised in the state the instruction began in, and raising it sets the latch alone. -/
theorem faultsArePrecise : Obligations.FaultsArePrecise := by
  intro i s t hrun h hhalt
  obtain ⟨c, -, rfl⟩ := exec_raises_of_halted hrun h hhalt
  rfl

/-- Settles O45: the cases are the traps an instruction raises, and the third is that of the four instructions with a
transfer at I. -/
theorem onlySixInstructionsFault : Obligations.OnlySixInstructionsFault := by
  intro i s t hrun h hhalt
  obtain ⟨c, hc, rfl⟩ := exec_raises_of_halted hrun h hhalt
  cases hc with
  | underflow hsp => exact .inl ⟨rfl, congrArg BitVec.toNat hsp, rfl, rfl⟩
  | overflow nnn hsp => exact .inr (.inl ⟨nnn, rfl, hsp, rfl, rfl⟩)
  | range _ hlen hbad => exact .inr (.inr ⟨accessLength i, hbad, rfl, rfl, accessLength_cases hlen⟩)

/-- Settles O46: a cycle while halted is no step of CORE, and what the other moves change is not the latch. -/
theorem haltedUntilReset : Obligations.HaltedUntilReset := by
  intro s hhalt
  refine ⟨cycle_halted s hhalt, fun t h hmove => ?_⟩
  obtain ⟨dt, st, m, e, rfl⟩ := step_frame_of_halted hhalt h hmove
  exact ⟨hhalt, rfl, rfl, rfl, rfl, rfl, rfl, rfl, rfl⟩

/-- Settles O60: SP at most 16 leaves a cycle no other outcome, a tick and a reset have none, and a loader write is
refused only outside its contract. -/
theorem stepAlwaysGoesOn : Obligations.StepAlwaysGoesOn := by
  intro s hinv hload
  rcases step_cases s with ⟨-, e⟩ | ⟨-, e⟩ | ⟨-, e⟩ | ⟨a, b, hmove, e⟩
  · rw [e]
    exact cycle_next_of_sp_le hinv.sp_le
  · exact ⟨_, e⟩
  · exact ⟨_, e⟩
  · obtain ⟨hopen, ha⟩ := hload a b hmove
    exact ⟨_, e.trans (loaderWrite_eq_next b hopen ha)⟩

/-- Settles O8: a word outside the map does not decode, and the cycle raises the fault of decode. -/
theorem illegalWordFaultsAndChangesNothingElse : Obligations.IllegalWordFaultsAndChangesNothingElse := by
  intro s hrun hpc hillegal
  have hdecode := State.fetchDecode_of_decode_error hpc (decode_of_not_legalWord hillegal)
  exact ⟨_, cycle_fault s hrun _ hdecode, rfl, rfl⟩

/-- Settles O9: the cycle raises the fault of the fetch, whose address O6 gives. -/
theorem fetchOutOfRangeFaults : Obligations.FetchOutOfRangeFaults := by
  intro s hrun
  obtain ⟨-, hlast, habove⟩ := fetchReadsTwoBytesHighFirst s
  refine ⟨fun hpc => ?_, fun hpc => ?_⟩
  · exact ⟨_, cycle_fault s hrun _ (State.fetchDecode_of_fetch_error (habove hpc)), rfl, rfl⟩
  · exact ⟨_, cycle_fault s hrun _ (State.fetchDecode_of_fetch_error (hlast hpc)), rfl, rfl⟩

end Sys2Proof.Proofs

/-! # Proofs of the statements about reset, the loader and runs (70_reset_and_hazards.md)

A run is taken apart at its first step (`run_succ_of_step`) or at its last (`run_succ_of_run`). The loader's moves for an
image leave the memory with the image stored as one block (`run_loaderMoves`), and zero memory runs one NOP after another
(`run_zeros`); the statements about runs are read off these two. -/

namespace Sys2Proof.Machine

open Sys2Proof.Claims

/-! ## Runs -/

theorem run_succ_of_step {s t : State} (k : Nat) (h : step s = .next t) :
    Host.Core.run core (k + 1) s = Host.Core.run core k t := by
  have hcore : core.step s = .next t := h
  simp only [Host.Core.run, hcore]

/-- A run that is still going after its first step was not stopped by it. -/
theorem step_of_run_succ {s t : State} {k : Nat} (h : Host.Core.run core (k + 1) s = .next t) :
    ∃ u, step s = .next u ∧ Host.Core.run core k u = .next t := by
  cases hstep : step s with
  | next u => exact ⟨u, rfl, (run_succ_of_step k hstep).symm.trans h⟩
  | fault r | refused r =>
    have hcore : core.step s = _ := hstep
    simp only [Host.Core.run, hcore] at h
    cases h

/-- A run that is still going takes one step more from where it is. -/
theorem run_succ_of_run {s t u : State} {k : Nat} (hrun : Host.Core.run core k s = .next t) (hstep : step t = .next u) :
    Host.Core.run core (k + 1) s = .next u := by
  induction k generalizing s with
  | zero =>
    cases hrun
    exact run_succ_of_step 0 hstep
  | succ k ih =>
    obtain ⟨v, hfirst, hrest⟩ := step_of_run_succ hrun
    exact (run_succ_of_step (k + 1) hfirst).trans (ih hrest)

/-! ## The moves of the script -/

/-- A step whose next move is a reset (R250; log entry 2). -/
theorem step_of_nextMove_reset {s : State} (h : s.nextMove = .reset) : step s = .next s.popScript.hostReset := by
  rw [step, h, hostMove]

/-- A step whose next move is a loader write (R256; log entry 2). -/
theorem step_of_nextMove_load {s : State} {a : Nat} {b : Byte} (h : s.nextMove = .load a b) :
    step s = loaderWrite s.popScript a b := by
  rw [step, h, hostMove]

/-- With nothing scripted a step is a cycle (log entry 2). -/
theorem step_of_script_nil {s : State} (h : s.env.script = []) : step s = cycle s := by
  have hpop : s.popScript = s := by
    rw [State.popScript, h, List.tail_nil, ← h]
  have hmove : s.nextMove = .cycle := by
    rw [State.nextMove, h, List.headD_nil]
  rw [step, hmove, hostMove, hpop]

/-! ## The loader -/

/-- After the first cycle the loader's window is closed (R6 (b); log entry 8). -/
theorem loaderWrite_of_started {s : State} (a : Nat) (b : Byte) (h : s.env.started = true) :
    loaderWrite s a b = .refused .loaderWriteAfterStart :=
  if_pos h

/-- A loader write above memory is a loader error (R256; log entry 8). -/
theorem loaderWrite_out_of_range {s : State} {a : Nat} (b : Byte) (hopen : s.env.started = false)
    (ha : Config.memSize ≤ a) : loaderWrite s a b = .refused (.loaderWriteOutOfRange a) := by
  rw [loaderWrite, if_neg (ne_true_of_eq_false hopen), memWrite_error _ a b ha]

/-- The loader's moves for an image that fits leave it stored as one block, and the script moved on (R256). -/
theorem run_loaderMoves (image : List Byte) (base : Nat) (rest : List HostMove) (s : State)
    (hfit : base + image.length ≤ Config.memSize) (hopen : s.env.started = false)
    (hscript : s.env.script = loaderMoves base image ++ rest) :
    Host.Core.run core image.length s =
      .next { s with mem := s.mem.writeBlock base image, env := { s.env with script := rest } } := by
  induction image generalizing base s with
  | nil =>
    have hrest : s.env.script = rest := hscript
    rw [← hrest]
    rfl
  | cons b bs ih =>
    rw [List.length_cons] at hfit
    have hcons : s.env.script = .load base b :: (loaderMoves (base + 1) bs ++ rest) := hscript
    have hmove : s.nextMove = .load base b := by
      rw [State.nextMove, hcons, List.headD_cons]
    have htail : s.popScript.env.script = loaderMoves (base + 1) bs ++ rest := by
      rw [State.popScript_script, hcons, List.tail_cons]
    have hstep : step s = .next (s.popScript.setMem (s.mem.writeByte base b)) :=
      (step_of_nextMove_load hmove).trans (loaderWrite_eq_next b hopen (by omega))
    exact (run_succ_of_step bs.length hstep).trans
      (ih (base + 1) (s.popScript.setMem (s.mem.writeByte base b)) (by omega) hopen htail)

/-! ## The self-jump -/

/-- At a self-jump the next instruction is a jump to the address it is fetched from (R258, decision D25). -/
theorem State.fetchDecode_of_atSelfJump (s : State) (h : s.atSelfJump = true) :
    ∃ nnn, s.fetchDecode = .ok (.jpNnn nnn) ∧ s.pc.toNat = nnn.toNat := by
  rw [State.atSelfJump] at h
  split at h
  case h_1 nnn hjump =>
    exact ⟨nnn, hjump, (congrArg BitVec.toNat (eq_of_beq h)).symm.trans (zextImm_toNat nnn)⟩
  case h_2 => exact absurd h Bool.false_ne_true

/-! ## Running off the program -/

/-- Below the end of memory and at it, pc does not wrap (R26 (a)). -/
theorem pcPlus_toNat {s : State} {k : Nat} (h : s.pc.toNat + k ≤ Config.memSize) :
    (pcPlus s k).toNat = s.pc.toNat + k := by
  have hlt : s.pc.toNat + k < 65536 := h.trans_lt (by decide)
  rw [pcPlus, Nat.mod_eq_of_lt hlt, BitVec.toNat_ofNat, Nat.mod_eq_of_lt hlt]

theorem pcPlus_setPc_pcPlus (s t : State) (j k : Nat) : pcPlus (t.setPc (pcPlus s j)) k = pcPlus s (j + k) := by
  rw [pcPlus_eq, pcPlus_eq, State.setPc_pc, pcPlus_eq, BitVec.add_assoc, BitVec.ofNat_add]

/-- With nothing scripted, two zero bytes at pc are run as a NOP (R100). -/
theorem step_of_zeros {s : State} (hrun : s.halted = false) (hscript : s.env.script = [])
    (hpc : s.pc.toNat + 1 < Config.memSize) (hhi : s.mem.readByte s.pc.toNat = 0)
    (hlo : s.mem.readByte (s.pc.toNat + 1) = 0) : step s = .next (s.markStarted.setPc (pcPlus s 2)) := by
  have hnop : s.fetchDecode = .ok .nop := by
    apply s.fetchDecode_of_decode .nop hpc
    rw [hhi, hlo]
    exact decode_eq_nop_iff.mpr rfl
  rw [step_of_script_nil hscript, cycle_exec s hrun .nop hnop]
  exact congrArg _ s.markStarted.advance_eq_pcPlus

/-- With nothing scripted, a step from the end of memory faults at fetch (R210 (b)). -/
theorem step_at_mem_end {s : State} (hrun : s.halted = false) (hscript : s.env.script = []) (hpc : s.pc = 0x1000) :
    step s = .next (s.markStarted.raise (.memRange 0x1000)) := by
  rw [step_of_script_nil hscript]
  exact cycle_fault s hrun _ (State.fetchDecode_of_fetch_error (s.fetch_error_mem_end (.inr hpc)))

/-- With nothing scripted, memory that is zero from pc on is run as NOPs as far as it reaches (R262). -/
theorem run_zeros {s : State} (hrun : s.halted = false) (hscript : s.env.script = [])
    (hzero : ∀ a, s.pc.toNat ≤ a → s.mem.readByte a = 0) (k : Nat) (hk : s.pc.toNat + 2 * (k + 1) ≤ Config.memSize) :
    Host.Core.run core (k + 1) s = .next (s.markStarted.setPc (pcPlus s (2 * (k + 1)))) := by
  induction k with
  | zero =>
    exact run_succ_of_step 0
      (step_of_zeros hrun hscript (by omega) (hzero _ le_rfl) (hzero _ (Nat.le_succ _)))
  | succ k ih =>
    have hbefore : s.pc.toNat + 2 * (k + 1) ≤ Config.memSize := by omega
    have hat : (s.markStarted.setPc (pcPlus s (2 * (k + 1)))).pc.toNat = s.pc.toNat + 2 * (k + 1) :=
      pcPlus_toNat hbefore
    have hnext := step_of_zeros (s := s.markStarted.setPc (pcPlus s (2 * (k + 1)))) hrun hscript
      (by omega) (hzero _ (by omega)) (hzero _ (by omega))
    rw [pcPlus_setPc_pcPlus] at hnext
    exact run_succ_of_run (ih hbefore) hnext

end Sys2Proof.Machine

namespace Sys2Proof.Proofs

open Sys2Proof.Machine Sys2Proof.Claims

/-- Settles O48: the moves store the image as one block at 0x200, and byte k of a block is read at its base plus k. -/
theorem loaderPlacesTheImage : Obligations.LoaderPlacesTheImage := by
  intro image rest s hwf hopen hscript
  have hlen : image.length ≤ 4096 - 0x200 := of_decide_eq_true hwf
  have hfit : 0x200 + image.length ≤ 4096 := by omega
  refine ⟨_, run_loaderMoves image 0x200 rest s hfit hopen hscript, rfl, fun k b hk => ?_, fun a ha => ?_⟩
  · exact Memory.readByte_writeBlock_of_getElem _ _ hk
  · exact Memory.readByte_writeBlock_outside _ _ _ _ ha

/-- Settles O50: k NOPs take pc to the end of memory, where the fetch of the next cycle faults. -/
theorem runningOffTheProgramFaultsAtTheEnd : Obligations.RunningOffTheProgramFaultsAtTheEnd := by
  intro k s hrun hscript hend hpos hzero
  obtain ⟨j, rfl⟩ := Nat.exists_eq_succ_of_ne_zero hpos.ne'
  have hnops := run_zeros hrun hscript hzero j hend.le
  have hpc : pcPlus s (2 * (j + 1)) = 0x1000 := by
    rw [pcPlus, hend]
    rfl
  rw [hpc] at hnops
  exact ⟨hnops, run_succ_of_run hnops (step_at_mem_end hrun hscript rfl)⟩

/-- Settles O47: the step leaves CORE as in the state after reset, whose registers and slots are each the element of a
constant vector. -/
theorem resetClearsEverything : Obligations.ResetClearsEverything := fun s hmove =>
  ⟨s.popScript.hostReset, step_of_nextMove_reset hmove, fun r => Vector.getElem_replicate r.isLt, rfl, rfl, rfl,
    fun j => Vector.getElem_replicate j.isLt, rfl, rfl, fun _ => rfl, rfl, rfl, rfl, rfl, rfl⟩

/-- Settles O49, by the two refusals of a loader write. -/
theorem loaderOutsideItsWindowIsRefused : Obligations.LoaderOutsideItsWindowIsRefused := fun _ a b hmove =>
  ⟨fun hstarted => (step_of_nextMove_load hmove).trans (loaderWrite_of_started a b hstarted),
    fun hopen ha => (step_of_nextMove_load hmove).trans (loaderWrite_out_of_range b hopen ha)⟩

/-- Settles O51: a halted cycle changes nothing, and a running one jumps to the address it was fetched from. -/
theorem selfJumpHoldsTheState : Obligations.SelfJumpHoldsTheState := by
  intro s hself
  cases hhalt : s.halted with
  | true => exact ⟨s, cycle_halted s hhalt, rfl⟩
  | false =>
    obtain ⟨nnn, hjump, hpc⟩ := s.fetchDecode_of_atSelfJump hself
    refine ⟨s.markStarted, ?_, s.markStarted_sameCore⟩
    rw [cycle_exec s hhalt _ hjump]
    exact congrArg _ (s.markStarted.setPc_zextImm_self nnn hpc)

end Sys2Proof.Proofs
